-- ==== Sys2Proof/Word.lean ====
section
/-! DEFINITION. The word types and the plain names of the encoding: bytes, addresses, the twelve
addressing modes (R100) with their operand fields (R81), and the mnemonics of the opcode map (R87). -/

namespace Sys2Proof

/-- A u8 of the spec (R4, R6): a register, a bus datum, an opcode. -/
abbrev Byte := BitVec 8

/-- A u16 of the spec (R4, R6): the program counter and every bus address. -/
abbrev Addr := BitVec 16

/-- The twelve addressing-mode tags (R100). -/
inductive Mode where
  | imp | imm | zp | zpx | zpy | rel | abs | abx | aby | ind | izx | izy
deriving DecidableEq, Repr, Inhabited

/-- An addressing mode together with the operand field its instruction carries (R81, R83). -/
inductive Operand where
  | imp
  | imm (imm8 : Byte)
  | zp (zp8 : Byte)
  | zpx (zp8 : Byte)
  | zpy (zp8 : Byte)
  | rel (rel8 : Byte)
  | abs (addr16 : Addr)
  | abx (addr16 : Addr)
  | aby (addr16 : Addr)
  | ind (ptr16 : Addr)
  | izx (zp8 : Byte)
  | izy (zp8 : Byte)
deriving DecidableEq, Repr

/-- The mode tag of an operand. -/
def Operand.mode : Operand → Mode
  | .imp => .imp
  | .imm _ => .imm
  | .zp _ => .zp
  | .zpx _ => .zpx
  | .zpy _ => .zpy
  | .rel _ => .rel
  | .abs _ => .abs
  | .abx _ => .abx
  | .aby _ => .aby
  | .ind _ => .ind
  | .izx _ => .izx
  | .izy _ => .izy

/-- The operation names of the opcode map (R85, R87); `xxx` is the table's name for the illegal no-op (R301). -/
inductive Mnemonic where
  | adc | and | asl | bcc | bcs | beq | bit | bmi | bne | bpl | brk | bvc | bvs | clc | cld | cli
  | clv | cmp | cpx | cpy | dec | dex | dey | eor | inc | inx | iny | jmp | jsr | lda | ldx | ldy
  | lsr | nop | ora | pha | php | pla | plp | rol | ror | rti | rts | sbc | sec | sed | sei | sta
  | stx | sty | tax | tay | tsx | txa | txs | tya | xxx
deriving DecidableEq, Repr

end Sys2Proof
end

