-- ==== Sys2Proof/Syntax.lean ====
section
/-! DEFINITION. The instructions. A constructor stands for the rows of spec/opcode_table.json that carry
its mnemonic: the operand's mode is the row's format, and `xxx` carries the row's opcode byte. -/

namespace Sys2Proof

inductive Instr where
  -- read-modify-write (R161 to R170)
  | asl (o : Operand)
  | lsr (o : Operand)
  | rol (o : Operand)
  | ror (o : Operand)
  | inc (o : Operand)
  | dec (o : Operand)
  | inx
  | iny
  | dex
  | dey
  -- accumulator arithmetic and logic (R192 to R201)
  | adc (o : Operand)
  | sbc (o : Operand)
  | and (o : Operand)
  | ora (o : Operand)
  | eor (o : Operand)
  | cmp (o : Operand)
  | cpx (o : Operand)
  | cpy (o : Operand)
  | bit (o : Operand)
  -- control transfer (R220 to R233)
  | jmp (o : Operand)
  | jsr (addr16 : Addr)
  | rts
  | rti
  | brk
  | bpl (rel8 : Byte)
  | bmi (rel8 : Byte)
  | bvc (rel8 : Byte)
  | bvs (rel8 : Byte)
  | bcc (rel8 : Byte)
  | bcs (rel8 : Byte)
  | bne (rel8 : Byte)
  | beq (rel8 : Byte)
  -- loads and stores (R260 to R265)
  | lda (o : Operand)
  | ldx (o : Operand)
  | ldy (o : Operand)
  | sta (o : Operand)
  | stx (o : Operand)
  | sty (o : Operand)
  -- register transfers (R266 to R271)
  | tax
  | tay
  | txa
  | tya
  | tsx
  | txs
  -- stack operations (R272 to R275)
  | pha
  | php
  | pla
  | plp
  -- flag instructions (R276 to R282)
  | clc
  | sec
  | cli
  | sei
  | cld
  | sed
  | clv
  -- no-operations (R300, R301)
  | nop
  | xxx (opcode : Byte)
deriving DecidableEq, Repr

end Sys2Proof
end

