-- ==== Sys2Proof/WellFormed.lean ====
section
/-! DEFINITION. Which terms of `Instr` are instructions: the mnemonic has a cell in its operand's mode
(R87: "A mnemonic has no encoding in a mode whose cell is empty"), and an illegal no-op carries one of
the 105 opcode bytes that have no documented instruction (R88). -/

namespace Sys2Proof

/-- The 105 illegal opcode bytes, in the order R88 lists them. -/
def illegalOpcodes : List Byte :=
  [0x02, 0x03, 0x04, 0x07, 0x0B, 0x0C, 0x0F]
    ++ [0x12, 0x13, 0x14, 0x17, 0x1A, 0x1B, 0x1C, 0x1F]
    ++ [0x22, 0x23, 0x27, 0x2B, 0x2F]
    ++ [0x32, 0x33, 0x34, 0x37, 0x3A, 0x3B, 0x3C, 0x3F]
    ++ [0x42, 0x43, 0x44, 0x47, 0x4B, 0x4F]
    ++ [0x52, 0x53, 0x54, 0x57, 0x5A, 0x5B, 0x5C, 0x5F]
    ++ [0x62, 0x63, 0x64, 0x67, 0x6B, 0x6F]
    ++ [0x72, 0x73, 0x74, 0x77, 0x7A, 0x7B, 0x7C, 0x7F]
    ++ [0x80, 0x82, 0x83, 0x87, 0x89, 0x8B, 0x8F]
    ++ [0x92, 0x93, 0x97, 0x9B, 0x9C, 0x9E, 0x9F]
    ++ [0xA3, 0xA7, 0xAB, 0xAF]
    ++ [0xB2, 0xB3, 0xB7, 0xBB, 0xBF]
    ++ [0xC2, 0xC3, 0xC7, 0xCB, 0xCF]
    ++ [0xD2, 0xD3, 0xD4, 0xD7, 0xDA, 0xDB, 0xDC, 0xDF]
    ++ [0xE2, 0xE3, 0xE7, 0xEB, 0xEF]
    ++ [0xF2, 0xF3, 0xF4, 0xF7, 0xFA, 0xFB, 0xFC, 0xFF]

/-- The modes in which R87 gives the mnemonic an encoding; for a mnemonic of one mode the constructor
itself fixes the mode. -/
def Instr.modes : Instr → List Mode
  | .asl _ => [.imp, .zp, .zpx, .abs, .abx]
  | .lsr _ => [.imp, .zp, .zpx, .abs, .abx]
  | .rol _ => [.imp, .zp, .zpx, .abs, .abx]
  | .ror _ => [.imp, .zp, .zpx, .abs, .abx]
  | .inc _ => [.zp, .zpx, .abs, .abx]
  | .dec _ => [.zp, .zpx, .abs, .abx]
  | .inx => [.imp]
  | .iny => [.imp]
  | .dex => [.imp]
  | .dey => [.imp]
  | .adc _ => [.imm, .zp, .zpx, .abs, .abx, .aby, .izx, .izy]
  | .sbc _ => [.imm, .zp, .zpx, .abs, .abx, .aby, .izx, .izy]
  | .and _ => [.imm, .zp, .zpx, .abs, .abx, .aby, .izx, .izy]
  | .ora _ => [.imm, .zp, .zpx, .abs, .abx, .aby, .izx, .izy]
  | .eor _ => [.imm, .zp, .zpx, .abs, .abx, .aby, .izx, .izy]
  | .cmp _ => [.imm, .zp, .zpx, .abs, .abx, .aby, .izx, .izy]
  | .cpx _ => [.imm, .zp, .abs]
  | .cpy _ => [.imm, .zp, .abs]
  | .bit _ => [.zp, .abs]
  | .jmp _ => [.abs, .ind]
  | .jsr _ => [.abs]
  | .rts => [.imp]
  | .rti => [.imp]
  | .brk => [.imp]
  | .bpl _ => [.rel]
  | .bmi _ => [.rel]
  | .bvc _ => [.rel]
  | .bvs _ => [.rel]
  | .bcc _ => [.rel]
  | .bcs _ => [.rel]
  | .bne _ => [.rel]
  | .beq _ => [.rel]
  | .lda _ => [.imm, .zp, .zpx, .abs, .abx, .aby, .izx, .izy]
  | .ldx _ => [.imm, .zp, .zpy, .abs, .aby]
  | .ldy _ => [.imm, .zp, .zpx, .abs, .abx]
  | .sta _ => [.zp, .zpx, .abs, .abx, .aby, .izx, .izy]
  | .stx _ => [.zp, .zpy, .abs]
  | .sty _ => [.zp, .zpx, .abs]
  | .tax => [.imp]
  | .tay => [.imp]
  | .txa => [.imp]
  | .tya => [.imp]
  | .tsx => [.imp]
  | .txs => [.imp]
  | .pha => [.imp]
  | .php => [.imp]
  | .pla => [.imp]
  | .plp => [.imp]
  | .clc => [.imp]
  | .sec => [.imp]
  | .cli => [.imp]
  | .sei => [.imp]
  | .cld => [.imp]
  | .sed => [.imp]
  | .clv => [.imp]
  | .nop => [.imp]
  | .xxx _ => [.imp]

/-- The operand of an instruction: its own, or the one its constructor fixes (R81). -/
def Instr.operand : Instr → Operand
  | .asl o => o
  | .lsr o => o
  | .rol o => o
  | .ror o => o
  | .inc o => o
  | .dec o => o
  | .inx => .imp
  | .iny => .imp
  | .dex => .imp
  | .dey => .imp
  | .adc o => o
  | .sbc o => o
  | .and o => o
  | .ora o => o
  | .eor o => o
  | .cmp o => o
  | .cpx o => o
  | .cpy o => o
  | .bit o => o
  | .jmp o => o
  | .jsr a => .abs a
  | .rts => .imp
  | .rti => .imp
  | .brk => .imp
  | .bpl d => .rel d
  | .bmi d => .rel d
  | .bvc d => .rel d
  | .bvs d => .rel d
  | .bcc d => .rel d
  | .bcs d => .rel d
  | .bne d => .rel d
  | .beq d => .rel d
  | .lda o => o
  | .ldx o => o
  | .ldy o => o
  | .sta o => o
  | .stx o => o
  | .sty o => o
  | .tax => .imp
  | .tay => .imp
  | .txa => .imp
  | .tya => .imp
  | .tsx => .imp
  | .txs => .imp
  | .pha => .imp
  | .php => .imp
  | .pla => .imp
  | .plp => .imp
  | .clc => .imp
  | .sec => .imp
  | .cli => .imp
  | .sei => .imp
  | .cld => .imp
  | .sed => .imp
  | .clv => .imp
  | .nop => .imp
  | .xxx _ => .imp

/-- Is the opcode byte an `xxx` term carries an illegal one (R88)? -/
def Instr.illegalByteOk : Instr → Bool
  | .xxx c => illegalOpcodes.contains c
  | .asl _ => true
  | .lsr _ => true
  | .rol _ => true
  | .ror _ => true
  | .inc _ => true
  | .dec _ => true
  | .inx => true
  | .iny => true
  | .dex => true
  | .dey => true
  | .adc _ => true
  | .sbc _ => true
  | .and _ => true
  | .ora _ => true
  | .eor _ => true
  | .cmp _ => true
  | .cpx _ => true
  | .cpy _ => true
  | .bit _ => true
  | .jmp _ => true
  | .jsr _ => true
  | .rts => true
  | .rti => true
  | .brk => true
  | .bpl _ => true
  | .bmi _ => true
  | .bvc _ => true
  | .bvs _ => true
  | .bcc _ => true
  | .bcs _ => true
  | .bne _ => true
  | .beq _ => true
  | .lda _ => true
  | .ldx _ => true
  | .ldy _ => true
  | .sta _ => true
  | .stx _ => true
  | .sty _ => true
  | .tax => true
  | .tay => true
  | .txa => true
  | .tya => true
  | .tsx => true
  | .txs => true
  | .pha => true
  | .php => true
  | .pla => true
  | .plp => true
  | .clc => true
  | .sec => true
  | .cli => true
  | .sei => true
  | .cld => true
  | .sed => true
  | .clv => true
  | .nop => true

/-- Well-formed: the opcode map holds the instruction (R87, R88). -/
def Instr.wellFormed (i : Instr) : Bool :=
  i.modes.contains i.operand.mode && i.illegalByteOk

end Sys2Proof
end

