-- ==== Sys2Proof/Decode.lean ====
section
/-! DEFINITION. Decoding and encoding, with the bit-field, sign-extension and byte-order helpers they
and the machine use. The decoder reads the opcode map by byte (R85); the encoder is written from the
map by mnemonic (R87), so that the two tables check each other. -/

namespace Sys2Proof

/-! ## Byte-order and bit-field helpers (R6) -/

/-- `cat(h, l)` of R6: `h * 256 + l`. -/
def cat (h l : Byte) : Addr := h ++ l

/-- `lo(w)` of R6. -/
def lo (w : Addr) : Byte := w.extractLsb' 0 8

/-- `hi(w)` of R6; the page of an address. -/
def hi (w : Addr) : Byte := w.extractLsb' 8 8

/-- `zext_16(v)` of R6. -/
def zext16 (v : Byte) : Addr := v.setWidth 16

/-- `sext_16(v)` of R6. -/
def sext16 (v : Byte) : Addr := v.signExtend 16

/-! ## The Opcode Descriptor (R84, R85) -/

/-- One entry of the Opcode Descriptor: operation, addressing mode, base cycle count (R84). -/
structure Descriptor where
  mnemonic : Mnemonic
  mode : Mode
  cycles : Nat
deriving DecidableEq, Repr

/-- R85, opcodes 0x00 to 0x0F. -/
def descriptorRow0 : List Descriptor :=
  [.mk .brk .imp 7, .mk .ora .izx 6, .mk .xxx .imp 2, .mk .xxx .imp 8,
   .mk .xxx .imp 3, .mk .ora .zp 3, .mk .asl .zp 5, .mk .xxx .imp 5,
   .mk .php .imp 3, .mk .ora .imm 2, .mk .asl .imp 2, .mk .xxx .imp 2,
   .mk .xxx .imp 4, .mk .ora .abs 4, .mk .asl .abs 6, .mk .xxx .imp 6]

/-- R85, opcodes 0x10 to 0x1F. -/
def descriptorRow1 : List Descriptor :=
  [.mk .bpl .rel 2, .mk .ora .izy 5, .mk .xxx .imp 2, .mk .xxx .imp 8,
   .mk .xxx .imp 4, .mk .ora .zpx 4, .mk .asl .zpx 6, .mk .xxx .imp 6,
   .mk .clc .imp 2, .mk .ora .aby 4, .mk .xxx .imp 2, .mk .xxx .imp 7,
   .mk .xxx .imp 4, .mk .ora .abx 4, .mk .asl .abx 7, .mk .xxx .imp 7]

/-- R85, opcodes 0x20 to 0x2F. -/
def descriptorRow2 : List Descriptor :=
  [.mk .jsr .abs 6, .mk .and .izx 6, .mk .xxx .imp 2, .mk .xxx .imp 8,
   .mk .bit .zp 3, .mk .and .zp 3, .mk .rol .zp 5, .mk .xxx .imp 5,
   .mk .plp .imp 4, .mk .and .imm 2, .mk .rol .imp 2, .mk .xxx .imp 2,
   .mk .bit .abs 4, .mk .and .abs 4, .mk .rol .abs 6, .mk .xxx .imp 6]

/-- R85, opcodes 0x30 to 0x3F. -/
def descriptorRow3 : List Descriptor :=
  [.mk .bmi .rel 2, .mk .and .izy 5, .mk .xxx .imp 2, .mk .xxx .imp 8,
   .mk .xxx .imp 4, .mk .and .zpx 4, .mk .rol .zpx 6, .mk .xxx .imp 6,
   .mk .sec .imp 2, .mk .and .aby 4, .mk .xxx .imp 2, .mk .xxx .imp 7,
   .mk .xxx .imp 4, .mk .and .abx 4, .mk .rol .abx 7, .mk .xxx .imp 7]

/-- R85, opcodes 0x40 to 0x4F. -/
def descriptorRow4 : List Descriptor :=
  [.mk .rti .imp 6, .mk .eor .izx 6, .mk .xxx .imp 2, .mk .xxx .imp 8,
   .mk .xxx .imp 3, .mk .eor .zp 3, .mk .lsr .zp 5, .mk .xxx .imp 5,
   .mk .pha .imp 3, .mk .eor .imm 2, .mk .lsr .imp 2, .mk .xxx .imp 2,
   .mk .jmp .abs 3, .mk .eor .abs 4, .mk .lsr .abs 6, .mk .xxx .imp 6]

/-- R85, opcodes 0x50 to 0x5F. -/
def descriptorRow5 : List Descriptor :=
  [.mk .bvc .rel 2, .mk .eor .izy 5, .mk .xxx .imp 2, .mk .xxx .imp 8,
   .mk .xxx .imp 4, .mk .eor .zpx 4, .mk .lsr .zpx 6, .mk .xxx .imp 6,
   .mk .cli .imp 2, .mk .eor .aby 4, .mk .xxx .imp 2, .mk .xxx .imp 7,
   .mk .xxx .imp 4, .mk .eor .abx 4, .mk .lsr .abx 7, .mk .xxx .imp 7]

/-- R85, opcodes 0x60 to 0x6F. -/
def descriptorRow6 : List Descriptor :=
  [.mk .rts .imp 6, .mk .adc .izx 6, .mk .xxx .imp 2, .mk .xxx .imp 8,
   .mk .xxx .imp 3, .mk .adc .zp 3, .mk .ror .zp 5, .mk .xxx .imp 5,
   .mk .pla .imp 4, .mk .adc .imm 2, .mk .ror .imp 2, .mk .xxx .imp 2,
   .mk .jmp .ind 5, .mk .adc .abs 4, .mk .ror .abs 6, .mk .xxx .imp 6]

/-- R85, opcodes 0x70 to 0x7F. -/
def descriptorRow7 : List Descriptor :=
  [.mk .bvs .rel 2, .mk .adc .izy 5, .mk .xxx .imp 2, .mk .xxx .imp 8,
   .mk .xxx .imp 4, .mk .adc .zpx 4, .mk .ror .zpx 6, .mk .xxx .imp 6,
   .mk .sei .imp 2, .mk .adc .aby 4, .mk .xxx .imp 2, .mk .xxx .imp 7,
   .mk .xxx .imp 4, .mk .adc .abx 4, .mk .ror .abx 7, .mk .xxx .imp 7]

/-- R85, opcodes 0x80 to 0x8F. -/
def descriptorRow8 : List Descriptor :=
  [.mk .xxx .imp 2, .mk .sta .izx 6, .mk .xxx .imp 2, .mk .xxx .imp 6,
   .mk .sty .zp 3, .mk .sta .zp 3, .mk .stx .zp 3, .mk .xxx .imp 3,
   .mk .dey .imp 2, .mk .xxx .imp 2, .mk .txa .imp 2, .mk .xxx .imp 2,
   .mk .sty .abs 4, .mk .sta .abs 4, .mk .stx .abs 4, .mk .xxx .imp 4]

/-- R85, opcodes 0x90 to 0x9F. -/
def descriptorRow9 : List Descriptor :=
  [.mk .bcc .rel 2, .mk .sta .izy 6, .mk .xxx .imp 2, .mk .xxx .imp 6,
   .mk .sty .zpx 4, .mk .sta .zpx 4, .mk .stx .zpy 4, .mk .xxx .imp 4,
   .mk .tya .imp 2, .mk .sta .aby 5, .mk .txs .imp 2, .mk .xxx .imp 5,
   .mk .xxx .imp 5, .mk .sta .abx 5, .mk .xxx .imp 5, .mk .xxx .imp 5]

/-- R85, opcodes 0xA0 to 0xAF. -/
def descriptorRowA : List Descriptor :=
  [.mk .ldy .imm 2, .mk .lda .izx 6, .mk .ldx .imm 2, .mk .xxx .imp 6,
   .mk .ldy .zp 3, .mk .lda .zp 3, .mk .ldx .zp 3, .mk .xxx .imp 3,
   .mk .tay .imp 2, .mk .lda .imm 2, .mk .tax .imp 2, .mk .xxx .imp 2,
   .mk .ldy .abs 4, .mk .lda .abs 4, .mk .ldx .abs 4, .mk .xxx .imp 4]

/-- R85, opcodes 0xB0 to 0xBF. -/
def descriptorRowB : List Descriptor :=
  [.mk .bcs .rel 2, .mk .lda .izy 5, .mk .xxx .imp 2, .mk .xxx .imp 5,
   .mk .ldy .zpx 4, .mk .lda .zpx 4, .mk .ldx .zpy 4, .mk .xxx .imp 4,
   .mk .clv .imp 2, .mk .lda .aby 4, .mk .tsx .imp 2, .mk .xxx .imp 4,
   .mk .ldy .abx 4, .mk .lda .abx 4, .mk .ldx .aby 4, .mk .xxx .imp 4]

/-- R85, opcodes 0xC0 to 0xCF. -/
def descriptorRowC : List Descriptor :=
  [.mk .cpy .imm 2, .mk .cmp .izx 6, .mk .xxx .imp 2, .mk .xxx .imp 8,
   .mk .cpy .zp 3, .mk .cmp .zp 3, .mk .dec .zp 5, .mk .xxx .imp 5,
   .mk .iny .imp 2, .mk .cmp .imm 2, .mk .dex .imp 2, .mk .xxx .imp 2,
   .mk .cpy .abs 4, .mk .cmp .abs 4, .mk .dec .abs 6, .mk .xxx .imp 6]

/-- R85, opcodes 0xD0 to 0xDF. -/
def descriptorRowD : List Descriptor :=
  [.mk .bne .rel 2, .mk .cmp .izy 5, .mk .xxx .imp 2, .mk .xxx .imp 8,
   .mk .xxx .imp 4, .mk .cmp .zpx 4, .mk .dec .zpx 6, .mk .xxx .imp 6,
   .mk .cld .imp 2, .mk .cmp .aby 4, .mk .xxx .imp 2, .mk .xxx .imp 7,
   .mk .xxx .imp 4, .mk .cmp .abx 4, .mk .dec .abx 7, .mk .xxx .imp 7]

/-- R85, opcodes 0xE0 to 0xEF. -/
def descriptorRowE : List Descriptor :=
  [.mk .cpx .imm 2, .mk .sbc .izx 6, .mk .xxx .imp 2, .mk .xxx .imp 8,
   .mk .cpx .zp 3, .mk .sbc .zp 3, .mk .inc .zp 5, .mk .xxx .imp 5,
   .mk .inx .imp 2, .mk .sbc .imm 2, .mk .nop .imp 2, .mk .xxx .imp 2,
   .mk .cpx .abs 4, .mk .sbc .abs 4, .mk .inc .abs 6, .mk .xxx .imp 6]

/-- R85, opcodes 0xF0 to 0xFF. -/
def descriptorRowF : List Descriptor :=
  [.mk .beq .rel 2, .mk .sbc .izy 5, .mk .xxx .imp 2, .mk .xxx .imp 8,
   .mk .xxx .imp 4, .mk .sbc .zpx 4, .mk .inc .zpx 6, .mk .xxx .imp 6,
   .mk .sed .imp 2, .mk .sbc .aby 4, .mk .xxx .imp 2, .mk .xxx .imp 7,
   .mk .xxx .imp 4, .mk .sbc .abx 4, .mk .inc .abx 7, .mk .xxx .imp 7]

/-- The 256 entries in opcode order. -/
def descriptorTable : List Descriptor :=
  descriptorRow0 ++ descriptorRow1 ++ descriptorRow2 ++ descriptorRow3
    ++ descriptorRow4 ++ descriptorRow5 ++ descriptorRow6 ++ descriptorRow7
    ++ descriptorRow8 ++ descriptorRow9 ++ descriptorRowA ++ descriptorRowB
    ++ descriptorRowC ++ descriptorRowD ++ descriptorRowE ++ descriptorRowF

/-- `Descriptor[opcode]` (R131). The table has 256 entries, so the default is never taken. -/
def descriptor (opcode : Byte) : Descriptor :=
  descriptorTable.getD opcode.toNat (.mk .xxx .imp 2)

/-- The number of operand bytes of each mode (R81). -/
def Mode.operandBytes : Mode → Nat
  | .imp => 0
  | .imm | .zp | .zpx | .zpy | .rel | .izx | .izy => 1
  | .abs | .abx | .aby | .ind => 2

/-! ## Decoding -/

/-- The operand field of a mode from the bytes after the opcode (R82): the second is the high one. -/
def Mode.operandFrom (m : Mode) (b1 b2 : Byte) : Operand :=
  match m with
  | .imp => .imp
  | .imm => .imm b1
  | .zp => .zp b1
  | .zpx => .zpx b1
  | .zpy => .zpy b1
  | .rel => .rel b1
  | .abs => .abs (cat b2 b1)
  | .abx => .abx (cat b2 b1)
  | .aby => .aby (cat b2 b1)
  | .ind => .ind (cat b2 b1)
  | .izx => .izx b1
  | .izy => .izy b1

/-- The instruction of an opcode and the two bytes after it, of which it uses those its mode has (R80). -/
def decodeBytes (opcode b1 b2 : Byte) : Instr :=
  let o := (descriptor opcode).mode.operandFrom b1 b2
  match (descriptor opcode).mnemonic with
  | .asl => .asl o
  | .lsr => .lsr o
  | .rol => .rol o
  | .ror => .ror o
  | .inc => .inc o
  | .dec => .dec o
  | .inx => .inx
  | .iny => .iny
  | .dex => .dex
  | .dey => .dey
  | .adc => .adc o
  | .sbc => .sbc o
  | .and => .and o
  | .ora => .ora o
  | .eor => .eor o
  | .cmp => .cmp o
  | .cpx => .cpx o
  | .cpy => .cpy o
  | .bit => .bit o
  | .jmp => .jmp o
  | .jsr => .jsr (cat b2 b1)
  | .rts => .rts
  | .rti => .rti
  | .brk => .brk
  | .bpl => .bpl b1
  | .bmi => .bmi b1
  | .bvc => .bvc b1
  | .bvs => .bvs b1
  | .bcc => .bcc b1
  | .bcs => .bcs b1
  | .bne => .bne b1
  | .beq => .beq b1
  | .lda => .lda o
  | .ldx => .ldx o
  | .ldy => .ldy o
  | .sta => .sta o
  | .stx => .stx o
  | .sty => .sty o
  | .tax => .tax
  | .tay => .tay
  | .txa => .txa
  | .tya => .tya
  | .tsx => .tsx
  | .txs => .txs
  | .pha => .pha
  | .php => .php
  | .pla => .pla
  | .plp => .plp
  | .clc => .clc
  | .sec => .sec
  | .cli => .cli
  | .sei => .sei
  | .cld => .cld
  | .sed => .sed
  | .clv => .clv
  | .nop => .nop
  | .xxx => .xxx opcode

/-- Why a list of bytes is not an instruction. Every opcode byte decodes (R80), so bytes can only be missing. -/
inductive DecodeError where
  /-- There is no opcode byte. -/
  | noOpcode
  /-- The list ends before the operand bytes that this opcode's mode has (R81). -/
  | missingOperandBytes (opcode : Byte)
deriving DecidableEq, Repr

/-- Decode the instruction at the front of a list of bytes; the answer holds the bytes after it. -/
def decode : List Byte → Except DecodeError (Instr × List Byte)
  | [] => .error .noOpcode
  | opcode :: rest =>
    match (descriptor opcode).mode.operandBytes, rest with
    | 0, rest => .ok (decodeBytes opcode 0 0, rest)
    | 1, b1 :: rest => .ok (decodeBytes opcode b1 0, rest)
    | 2, b1 :: b2 :: rest => .ok (decodeBytes opcode b1 b2, rest)
    | _, _ => .error (.missingOperandBytes opcode)

/-! ## Encoding -/

/-- The opcode byte of an instruction, from the cells of R87; none where the cell is empty. -/
def Instr.opcode : Instr → Option Byte
  | .asl o => [(Mode.imp, (0x0A : Byte)), (.zp, 0x06), (.zpx, 0x16), (.abs, 0x0E), (.abx, 0x1E)].lookup o.mode
  | .lsr o => [(Mode.imp, (0x4A : Byte)), (.zp, 0x46), (.zpx, 0x56), (.abs, 0x4E), (.abx, 0x5E)].lookup o.mode
  | .rol o => [(Mode.imp, (0x2A : Byte)), (.zp, 0x26), (.zpx, 0x36), (.abs, 0x2E), (.abx, 0x3E)].lookup o.mode
  | .ror o => [(Mode.imp, (0x6A : Byte)), (.zp, 0x66), (.zpx, 0x76), (.abs, 0x6E), (.abx, 0x7E)].lookup o.mode
  | .inc o => [(Mode.zp, (0xE6 : Byte)), (.zpx, 0xF6), (.abs, 0xEE), (.abx, 0xFE)].lookup o.mode
  | .dec o => [(Mode.zp, (0xC6 : Byte)), (.zpx, 0xD6), (.abs, 0xCE), (.abx, 0xDE)].lookup o.mode
  | .inx => some 0xE8
  | .iny => some 0xC8
  | .dex => some 0xCA
  | .dey => some 0x88
  | .adc o => [(Mode.imm, (0x69 : Byte)), (.zp, 0x65), (.zpx, 0x75), (.abs, 0x6D), (.abx, 0x7D), (.aby, 0x79), (.izx, 0x61), (.izy, 0x71)].lookup o.mode
  | .sbc o => [(Mode.imm, (0xE9 : Byte)), (.zp, 0xE5), (.zpx, 0xF5), (.abs, 0xED), (.abx, 0xFD), (.aby, 0xF9), (.izx, 0xE1), (.izy, 0xF1)].lookup o.mode
  | .and o => [(Mode.imm, (0x29 : Byte)), (.zp, 0x25), (.zpx, 0x35), (.abs, 0x2D), (.abx, 0x3D), (.aby, 0x39), (.izx, 0x21), (.izy, 0x31)].lookup o.mode
  | .ora o => [(Mode.imm, (0x09 : Byte)), (.zp, 0x05), (.zpx, 0x15), (.abs, 0x0D), (.abx, 0x1D), (.aby, 0x19), (.izx, 0x01), (.izy, 0x11)].lookup o.mode
  | .eor o => [(Mode.imm, (0x49 : Byte)), (.zp, 0x45), (.zpx, 0x55), (.abs, 0x4D), (.abx, 0x5D), (.aby, 0x59), (.izx, 0x41), (.izy, 0x51)].lookup o.mode
  | .cmp o => [(Mode.imm, (0xC9 : Byte)), (.zp, 0xC5), (.zpx, 0xD5), (.abs, 0xCD), (.abx, 0xDD), (.aby, 0xD9), (.izx, 0xC1), (.izy, 0xD1)].lookup o.mode
  | .cpx o => [(Mode.imm, (0xE0 : Byte)), (.zp, 0xE4), (.abs, 0xEC)].lookup o.mode
  | .cpy o => [(Mode.imm, (0xC0 : Byte)), (.zp, 0xC4), (.abs, 0xCC)].lookup o.mode
  | .bit o => [(Mode.zp, (0x24 : Byte)), (.abs, 0x2C)].lookup o.mode
  | .jmp o => [(Mode.abs, (0x4C : Byte)), (.ind, 0x6C)].lookup o.mode
  | .jsr _ => some 0x20
  | .rts => some 0x60
  | .rti => some 0x40
  | .brk => some 0x00
  | .bpl _ => some 0x10
  | .bmi _ => some 0x30
  | .bvc _ => some 0x50
  | .bvs _ => some 0x70
  | .bcc _ => some 0x90
  | .bcs _ => some 0xB0
  | .bne _ => some 0xD0
  | .beq _ => some 0xF0
  | .lda o => [(Mode.imm, (0xA9 : Byte)), (.zp, 0xA5), (.zpx, 0xB5), (.abs, 0xAD), (.abx, 0xBD), (.aby, 0xB9), (.izx, 0xA1), (.izy, 0xB1)].lookup o.mode
  | .ldx o => [(Mode.imm, (0xA2 : Byte)), (.zp, 0xA6), (.zpy, 0xB6), (.abs, 0xAE), (.aby, 0xBE)].lookup o.mode
  | .ldy o => [(Mode.imm, (0xA0 : Byte)), (.zp, 0xA4), (.zpx, 0xB4), (.abs, 0xAC), (.abx, 0xBC)].lookup o.mode
  | .sta o => [(Mode.zp, (0x85 : Byte)), (.zpx, 0x95), (.abs, 0x8D), (.abx, 0x9D), (.aby, 0x99), (.izx, 0x81), (.izy, 0x91)].lookup o.mode
  | .stx o => [(Mode.zp, (0x86 : Byte)), (.zpy, 0x96), (.abs, 0x8E)].lookup o.mode
  | .sty o => [(Mode.zp, (0x84 : Byte)), (.zpx, 0x94), (.abs, 0x8C)].lookup o.mode
  | .tax => some 0xAA
  | .tay => some 0xA8
  | .txa => some 0x8A
  | .tya => some 0x98
  | .tsx => some 0xBA
  | .txs => some 0x9A
  | .pha => some 0x48
  | .php => some 0x08
  | .pla => some 0x68
  | .plp => some 0x28
  | .clc => some 0x18
  | .sec => some 0x38
  | .cli => some 0x58
  | .sei => some 0x78
  | .cld => some 0xD8
  | .sed => some 0xF8
  | .clv => some 0xB8
  | .nop => some 0xEA
  | .xxx c => if illegalOpcodes.contains c then some c else none

/-- The operand bytes of an instruction, the low byte of a 16-bit field first (R82). -/
def Operand.bytes : Operand → List Byte
  | .imp => []
  | .imm b | .zp b | .zpx b | .zpy b | .rel b | .izx b | .izy b => [b]
  | .abs w | .abx w | .aby w | .ind w => [lo w, hi w]

/-- The bytes of a well-formed instruction in address order (R80, R82); none for a term without encoding. -/
def encode (i : Instr) : List Byte :=
  match i.opcode with
  | some c => c :: i.operand.bytes
  | none => []

/-- The length of an instruction in bytes (R81). -/
def Instr.length (i : Instr) : Nat := 1 + i.operand.bytes.length

/-- The base cycle count of an instruction: that of its opcode's entry (R85, R134). -/
def Instr.baseCycles (i : Instr) : Nat :=
  match i.opcode with
  | some c => (descriptor c).cycles
  | none => 0

/-- The operation name of an instruction. -/
def Instr.mnemonic : Instr → Mnemonic
  | .asl _ => .asl
  | .lsr _ => .lsr
  | .rol _ => .rol
  | .ror _ => .ror
  | .inc _ => .inc
  | .dec _ => .dec
  | .inx => .inx
  | .iny => .iny
  | .dex => .dex
  | .dey => .dey
  | .adc _ => .adc
  | .sbc _ => .sbc
  | .and _ => .and
  | .ora _ => .ora
  | .eor _ => .eor
  | .cmp _ => .cmp
  | .cpx _ => .cpx
  | .cpy _ => .cpy
  | .bit _ => .bit
  | .jmp _ => .jmp
  | .jsr _ => .jsr
  | .rts => .rts
  | .rti => .rti
  | .brk => .brk
  | .bpl _ => .bpl
  | .bmi _ => .bmi
  | .bvc _ => .bvc
  | .bvs _ => .bvs
  | .bcc _ => .bcc
  | .bcs _ => .bcs
  | .bne _ => .bne
  | .beq _ => .beq
  | .lda _ => .lda
  | .ldx _ => .ldx
  | .ldy _ => .ldy
  | .sta _ => .sta
  | .stx _ => .stx
  | .sty _ => .sty
  | .tax => .tax
  | .tay => .tay
  | .txa => .txa
  | .tya => .tya
  | .tsx => .tsx
  | .txs => .txs
  | .pha => .pha
  | .php => .php
  | .pla => .pla
  | .plp => .plp
  | .clc => .clc
  | .sec => .sec
  | .cli => .cli
  | .sei => .sei
  | .cld => .cld
  | .sed => .sed
  | .clv => .clv
  | .nop => .nop
  | .xxx _ => .xxx

/-! ## The table's numbering of bits -/

/-- The three bytes of a table word, least significant first; bits at and above `nbits` are zero. -/
def tableBytes (nbits w : Nat) : Byte × Byte × Byte :=
  let v := w % 2 ^ nbits
  (BitVec.ofNat 8 v, BitVec.ofNat 8 (v / 256), BitVec.ofNat 8 (v / 65536))

/-- What the decoder reads from an instruction whose bits, numbered as spec/opcode_table.json numbers
them, are `w`: byte k of the instruction is bits 8k+7..8k. -/
def decodeTableWord (nbits w : Nat) : Option Instr :=
  match decode [(tableBytes nbits w).1, (tableBytes nbits w).2.1, (tableBytes nbits w).2.2] with
  | .ok (i, _) => some i
  | .error _ => none

end Sys2Proof
end

