-- ==== Sys2Proof/Config.lean ====
section
/-! DEFINITION. The named parameters of the model (R5), fixed for a run, and the one byte an unlisted
bus address reads as. R139 makes every pulse that goes on a function of state and bus; the one free value,
what a faulted core holds beside its mark, is `faultedState` in Machine/State.lean, whose type it needs. -/

namespace Sys2Proof

/-- The meaning of ADC and SBC when flag D = 1 (R5, R191). -/
inductive DecimalMode where
  | unmodelled
  | nmos
  | binary
deriving DecidableEq, Repr, Inhabited

/-- The parameters of R5. -/
structure Config where
  /-- `MEM_SIZE`, the number of bytes of the Memory Bus. -/
  memSize : Nat
  /-- `DECIMAL_MODE`. -/
  decimalMode : DecimalMode
  /-- `RESET_CYCLES`. -/
  resetCycles : Nat
  /-- `NMI_CYCLES`. -/
  nmiCycles : Nat
  /-- `IRQ_CYCLES`. -/
  irqCycles : Nat
deriving DecidableEq, Repr, Inhabited

/-- The defaults of R5 (decisions D1, D7, D8, D17 of the spec). -/
def Config.standard : Config :=
  { memSize := 65536, decimalMode := .unmodelled, resetCycles := 7, nmiCycles := 7, irqCycles := 7 }

/-- The ranges R5 gives its parameters. -/
def Config.wf (c : Config) : Bool :=
  decide (1 ≤ c.memSize) && decide (c.memSize ≤ 65536) && decide (1 ≤ c.resetCycles)
    && decide (1 ≤ c.nmiCycles) && decide (1 ≤ c.irqCycles)

/-- What a bus address that the memory list does not name reads as.
DESIGN CHOICE (unsafe, assumption 1): the spec leaves the bus contents to the platform (X15, R64). -/
def unlistedByte : Byte := 0x00

end Sys2Proof
end

