-- ==== Sys2Proof/Machine/State.lean ====
section
/-! DEFINITION. The state of the core and its bus as plain data, the reasons a step can stop, the state
after reset, and one plain setter for each field. -/

namespace Sys2Proof.Machine

open Sys2Proof

/-- Why the core stops for good: the fault marks of R45. -/
inductive Fault where
  /-- A bus read or write at an address `>= MEM_SIZE` (R330). Raised by every bus access the core makes,
  through `memRead` and `memWrite`. Safe: the spec names this fault, and the core takes no further step. -/
  | addressingFault (addr : Addr)
  /-- ADC or SBC with D = 1 while `DECIMAL_MODE` is `unmodelled` (R191, R331). Raised by ADC and SBC
  after the operand read. Safe: the spec names this stop; the other two values of the parameter run. -/
  | decimalUnmodelled (opcode : Byte)
deriving DecidableEq, Repr

/-- Why a step has no meaning. -/
inductive Refusal where
  /-- An arm of `exec` whose instruction has no meaning yet. No arm raises it. Safe. -/
  | notModelled (mnemonic : String)
  /-- A term that the opcode map does not hold (an empty cell of R87), raised by `pulse`. The decoder
  never answers such a term. Safe. -/
  | noEncoding
  /-- The host calls `nmi()` or `irq()` while the core is Busy: "has no move" (R150, R310), raised by the
  host-call step. Unsafe by the spec's own count (D9): nothing is said of a host that breaks this duty. -/
  | hostCallWhileBusy
  /-- The host writes a byte the bus does not have, raised by the host-write step. Safe. -/
  | hostWriteOutsideBus
deriving DecidableEq, Repr

/-- The eight flags of the status register as named predicates (R26). The status byte is assembled from
them and decomposed into them in Machine/Flags.lean (R27). -/
structure Status where
  /-- Carry, bit 0 (R30). -/
  c : Bool
  /-- Zero, bit 1 (R31). -/
  z : Bool
  /-- Interrupt disable, bit 2 (R32). -/
  i : Bool
  /-- Decimal, bit 3 (R33). -/
  d : Bool
  /-- Break, bit 4 (R34). -/
  b : Bool
  /-- Unused, reads 1, bit 5 (R28). -/
  u : Bool
  /-- Overflow, bit 6 (R35). -/
  v : Bool
  /-- Negative, bit 7 (R36). -/
  n : Bool
deriving DecidableEq, Repr, Inhabited

/-- What the host may do to the core between pulses (R150). Reading state has no effect and is no action. -/
inductive HostAction where
  /-- `clock()`, one pulse (R131). -/
  | clock
  /-- `reset()` (R350). -/
  | reset
  /-- `nmi()` (R313). -/
  | nmi
  /-- `irq()` (R314). -/
  | irq
  /-- Write one bus byte between calls (R150, R67). -/
  | writeBus (addr : Addr) (value : Byte)
deriving DecidableEq, Repr

/-- The bus as a list of (address, byte): addresses strictly rising, no byte equal to `unlistedByte`. -/
abbrev Memory := List Host.Cell

/-- Everything the spec gives the machine, and the model's own `cfg` and `host`. -/
structure State where
  /-- A, the accumulator (R21). -/
  a : Byte
  /-- X, index register (R22). -/
  x : Byte
  /-- Y, index register (R23). -/
  y : Byte
  /-- S, the stack pointer: offset into the page at 0x0100 (R24). -/
  sp : Byte
  /-- PC, the program counter (R25). -/
  pc : Addr
  /-- P, the status register (R26). -/
  p : Status
  /-- Execution cache: the opcode byte fetched last (R38). -/
  opcode : Byte
  /-- Execution cache: the operand byte (R39). -/
  fetched : Byte
  /-- Execution cache: the active addressing mode (R40). -/
  mode : Mode
  /-- Execution cache: `addr_abs`, the effective address (R41). -/
  addrAbs : Addr
  /-- Execution cache: `addr_rel`, the branch offset (R42). -/
  addrRel : Addr
  /-- Execution cache: the pulses the instruction or entry in flight still owes (R43). -/
  remaining : Nat
  /-- The fault mark; `none` in a running core (R45). -/
  fault : Option Fault
  /-- The Memory Bus (R50), which the host owns and lends to the core. -/
  mem : Memory
  /-- The model's own: the parameters of R5. No step changes them. -/
  cfg : Config
  /-- The model's own: the host's coming calls (R150), the first one first; when none is listed the host calls `clock()`. -/
  host : List HostAction
deriving DecidableEq, Repr, Inhabited

/-- The state `reset()` leaves (R48, R350) on a bus that lists nothing, with the standard parameters and
no host call waiting. PC is the word at the RESET vector, two unlisted bytes. -/
def State.reset : State :=
  { a := 0x00, x := 0x00, y := 0x00, sp := 0xFD
    pc := unlistedByte ++ unlistedByte
    p := { c := false, z := false, i := false, d := false, b := false, u := true, v := false, n := false }
    opcode := 0x00, fetched := 0x00, mode := .imp, addrAbs := 0x0000, addrRel := 0x0000
    remaining := Config.standard.resetCycles
    fault := none
    mem := []
    cfg := Config.standard
    host := [] }

/-- What a core that faults in the given state holds of its registers, flags, cache and bus, beside the mark:
any value (R140, R332, X7; decisions D26, D30). A free value (assumption 9): nothing constrains it, and no
proof can read it. -/
opaque faultedState : State → State

/-! ## One setter for each field -/

def State.setA (s : State) (v : Byte) : State := { s with a := v }

def State.setX (s : State) (v : Byte) : State := { s with x := v }

def State.setY (s : State) (v : Byte) : State := { s with y := v }

def State.setSp (s : State) (v : Byte) : State := { s with sp := v }

def State.setPc (s : State) (v : Addr) : State := { s with pc := v }

def State.setP (s : State) (v : Status) : State := { s with p := v }

def State.setOpcode (s : State) (v : Byte) : State := { s with opcode := v }

def State.setFetched (s : State) (v : Byte) : State := { s with fetched := v }

def State.setMode (s : State) (v : Mode) : State := { s with mode := v }

def State.setAddrAbs (s : State) (v : Addr) : State := { s with addrAbs := v }

def State.setAddrRel (s : State) (v : Addr) : State := { s with addrRel := v }

def State.setRemaining (s : State) (v : Nat) : State := { s with remaining := v }

def State.setFault (s : State) (v : Option Fault) : State := { s with fault := v }

def State.setMem (s : State) (v : Memory) : State := { s with mem := v }

def State.setHost (s : State) (v : List HostAction) : State := { s with host := v }

end Sys2Proof.Machine
end

