-- ==== Sys2Proof/Machine/Flags.lean ====
section
/-! DEFINITION. Every flag computation of the spec: the status byte (R27), SetZN (R29), the adder (R190),
the comparison (R197), BIT (R201), the shifts and rotates (R161 to R164) and the NMOS decimal reference
(R202, R203). Each answers a result byte, if it has one, and the status it leaves. -/

namespace Sys2Proof.Machine

open Sys2Proof

/-- The status byte `P` (R27): N V U B D I Z C from bit 7 down. -/
def Status.toByte (p : Status) : Byte :=
  BitVec.ofNat 8
    (p.n.toNat * 128 + p.v.toNat * 64 + p.u.toNat * 32 + p.b.toNat * 16
      + p.d.toNat * 8 + p.i.toNat * 4 + p.z.toNat * 2 + p.c.toNat)

/-- `SetP(b)` (R27): bits 4 and 5 of the byte are ignored; B becomes 0 and U becomes 1. -/
def Status.ofPulled (b : Byte) : Status :=
  { c := b.getLsbD 0, z := b.getLsbD 1, i := b.getLsbD 2, d := b.getLsbD 3
    b := false, u := true, v := b.getLsbD 6, n := b.getLsbD 7 }

/-- The byte a status push writes: U forced to 1, bit 4 as the pusher asks (R28, R224, R273, R312). -/
def Status.pushed (p : Status) (break_ : Bool) : Byte :=
  Status.toByte { p with u := true, b := break_ }

/-- `SetZN(v)` (R29). -/
def Status.setZN (p : Status) (v : Byte) : Status :=
  { p with z := v == 0, n := v.getLsbD 7 }

/-- A result byte with the status after the operation that made it. -/
structure Result where
  value : Byte
  status : Status
deriving DecidableEq, Repr

/-- `AddBinary(a, m, c)` with `c` the carry of `p` (R190). -/
def addBinary (p : Status) (a m : Byte) : Result :=
  let s := a.toNat + m.toNat + p.c.toNat
  let r := BitVec.ofNat 8 s
  { value := r
    status := Status.setZN
      { p with c := decide (s > 0xFF), v := ((~~~(a ^^^ m)) &&& (a ^^^ r)).getLsbD 7 } r }

/-- `ADC_nmos(a, m, c)` (R202). -/
def addNmos (p : Status) (a m : Byte) : Result :=
  let c := p.c.toNat
  let s := a.toNat + m.toNat + c
  let al0 := (a &&& 0x0F).toNat + (m &&& 0x0F).toNat + c
  let al := if al0 ≥ 0x0A then (al0 + 0x06) % 16 + 0x10 else al0
  let t0 := (a &&& 0xF0).toNat + (m &&& 0xF0).toNat + al
  let ts : Int := (a &&& 0xF0).toInt + (m &&& 0xF0).toInt + al
  let t := if t0 ≥ 0xA0 then t0 + 0x60 else t0
  { value := BitVec.ofNat 8 t
    status :=
      { p with
        z := decide (s % 256 = 0)
        n := t0.testBit 7
        v := decide (ts < -128 ∨ ts > 127)
        c := decide (t ≥ 0x100) } }

/-- `SBC_nmos(a, m, c)` (R203): the flags of the binary subtraction, A by the decimal rule. -/
def subNmos (p : Status) (a m : Byte) : Result :=
  let al0 : Int := (a &&& 0x0F).toNat - (m &&& 0x0F).toNat + p.c.toNat - 1
  let al : Int := if al0 < 0 then (al0 - 0x06) % 16 - 0x10 else al0
  let t0 : Int := (a &&& 0xF0).toNat - (m &&& 0xF0).toNat + al
  let t : Int := if t0 < 0 then t0 - 0x60 else t0
  { value := BitVec.ofInt 8 t
    status := (addBinary p a (~~~m)).status }

/-- `Compare(r, m)` (R197). -/
def compareBytes (p : Status) (r m : Byte) : Status :=
  Status.setZN { p with c := decide (r.toNat ≥ m.toNat) } (r - m)

/-- The flags of BIT (R201). -/
def bitTest (p : Status) (a m : Byte) : Status :=
  { p with z := (a &&& m) == 0, v := m.getLsbD 6, n := m.getLsbD 7 }

/-- A logic, load or transfer result with its Z and N (R194 to R196, R260 to R262, R266 to R270, R274). -/
def withZN (p : Status) (v : Byte) : Result :=
  { value := v, status := p.setZN v }

/-- ASL (R161). -/
def shiftLeft (p : Status) (m : Byte) : Result :=
  withZN { p with c := m.getLsbD 7 } (BitVec.ofNat 8 (m.toNat * 2))

/-- LSR (R162). -/
def shiftRight (p : Status) (m : Byte) : Result :=
  withZN { p with c := m.getLsbD 0 } (BitVec.ofNat 8 (m.toNat / 2))

/-- ROL (R163): the old carry enters bit 0. -/
def rotateLeft (p : Status) (m : Byte) : Result :=
  withZN { p with c := m.getLsbD 7 } (BitVec.ofNat 8 (m.toNat * 2 + p.c.toNat))

/-- ROR (R164): the old carry enters bit 7. -/
def rotateRight (p : Status) (m : Byte) : Result :=
  withZN { p with c := m.getLsbD 0 } (BitVec.ofNat 8 (p.c.toNat * 128 + m.toNat / 2))

/-- INC, INX, INY (R165, R167, R168). -/
def increment (p : Status) (m : Byte) : Result := withZN p (m + 1)

/-- DEC, DEX, DEY (R166, R169, R170). -/
def decrement (p : Status) (m : Byte) : Result := withZN p (m + 255)

end Sys2Proof.Machine
end

