-- ==== Sys2Proof/Machine/Ops.lean ====
section
/-! DEFINITION. The named operations over the bus, the stack and the registers, taking an exception and
returning from one, and the host's entry points. An operation that can fault answers `Except Fault`. -/

namespace Sys2Proof.Machine

open Sys2Proof

/-! ## The bus as a list -/

/-- The byte at an address; `unlistedByte` where the list names none. -/
def Memory.read : Memory → Nat → Byte
  | [], _ => unlistedByte
  | (k, b) :: m, addr => if k = addr then b else Memory.read m addr

/-- Put a byte that differs from `unlistedByte` at its place in the rising list. -/
def Memory.insert : Memory → Nat → Byte → Memory
  | [], addr, v => [(addr, v)]
  | (k, b) :: m, addr, v =>
    if addr < k then (addr, v) :: (k, b) :: m
    else if addr = k then (addr, v) :: m
    else (k, b) :: Memory.insert m addr v

/-- Take an address out of the list. -/
def Memory.erase (m : Memory) (addr : Nat) : Memory :=
  m.filter fun cell => cell.1 != addr

/-- Write one byte, keeping the canonical form. -/
def Memory.write (m : Memory) (addr : Nat) (v : Byte) : Memory :=
  if v = unlistedByte then m.erase addr else m.insert addr v

/-- The canonical form: addresses strictly rising and no byte equal to `unlistedByte`. -/
def Memory.wf : Memory → Bool
  | [] => true
  | (k, b) :: m => b != unlistedByte && m.all (fun cell => decide (k < cell.1)) && Memory.wf m

/-- Every listed address is one of the `size` bytes of the bus. -/
def Memory.within (m : Memory) (size : Nat) : Bool :=
  m.all fun cell => decide (cell.1 < size)

/-! ## Bus accesses of the core (R51, R52, R54, R330) -/

/-- The byte the bus holds at an address. -/
def State.byteAt (s : State) (addr : Addr) : Byte := s.mem.read addr.toNat

/-- Is the address one the bus has (R330)? -/
def State.inBus (s : State) (addr : Addr) : Bool := decide (addr.toNat < s.cfg.memSize)

/-- `MemRead(addr, 1)` (R51). -/
def memRead (s : State) (addr : Addr) : Except Fault Byte :=
  if s.inBus addr then .ok (s.byteAt addr) else .error (.addressingFault addr)

/-- `MemWrite(addr, 1, v)` (R52). -/
def memWrite (s : State) (addr : Addr) (v : Byte) : Except Fault State :=
  if s.inBus addr then .ok (s.setMem (s.mem.write addr.toNat v)) else .error (.addressingFault addr)

/-- `MemRead16(addr)` (R54): the low byte first, the high byte at `addr + 1` mod 65536. -/
def memRead16 (s : State) (addr : Addr) : Except Fault Addr := do
  let l ← memRead s addr
  let h ← memRead s (addr + 1)
  return cat h l

/-- The word at an address as `MemRead16` sees it. -/
def State.wordAt (s : State) (addr : Addr) : Addr := cat (s.byteAt (addr + 1)) (s.byteAt addr)

/-! ## The stack (R57 to R60) -/

/-- `0x0100 + S`, for a stack pointer value (R24). -/
def stackAddr (sp : Byte) : Addr := cat 0x01 sp

/-- `Push8(v)` (R57). -/
def push8 (s : State) (v : Byte) : Except Fault State := do
  let s ← memWrite s (stackAddr s.sp) v
  return s.setSp (s.sp - 1)

/-- `Pull8()` (R58); the byte pulled and the state after. -/
def pull8 (s : State) : Except Fault (Byte × State) := do
  let s := s.setSp (s.sp + 1)
  let v ← memRead s (stackAddr s.sp)
  return (v, s)

/-- `Push16(w)` (R59): the high byte first. -/
def push16 (s : State) (w : Addr) : Except Fault State := do
  let s ← push8 s (hi w)
  push8 s (lo w)

/-- `Pull16()` (R60): the low byte first. -/
def pull16 (s : State) : Except Fault (Addr × State) := do
  let (l, s) ← pull8 s
  let (h, s) ← pull8 s
  return (cat h l, s)

/-! ## Vectors (R63) -/

def nmiVector : Addr := 0xFFFA
def resetVector : Addr := 0xFFFC
def irqVector : Addr := 0xFFFE

/-! ## Taking an exception and returning from one -/

/-- The entry sequence NMI, IRQ and BRK share (R312, R224): push PC, force U, push the status with bit 4
as given, set I, load PC from the vector. -/
def enterException (s : State) (vector : Addr) (break_ : Bool) : Except Fault State := do
  let s ← push16 s s.pc
  let s := s.setP { s.p with u := true }
  let s ← push8 s (s.p.pushed break_)
  let s := s.setP { s.p with i := true }
  let target ← memRead16 s vector
  return s.setPc target

/-- The return from NMI, IRQ and BRK (R223): pull the status, then PC. -/
def returnFromException (s : State) : Except Fault State := do
  let (b, s) ← pull8 s
  let s := s.setP (Status.ofPulled b)
  let (w, s) ← pull16 s
  return s.setPc w

/-! ## The host's entry points (R312 to R314, R350) -/

/-- `InterruptEntry(vec, cost)` (R312): the cost is owed, no pulse is made. -/
def interruptEntry (s : State) (vector : Addr) (cost : Nat) : Except Fault State := do
  let s ← enterException s vector false
  return s.setRemaining cost

/-- `nmi()` on an Idle core (R313). -/
def nmiEntry (s : State) : Except Fault State :=
  interruptEntry s nmiVector s.cfg.nmiCycles

/-- `irq()` on an Idle core (R314): ignored, with no trace, while I is set. -/
def irqEntry (s : State) : Except Fault State :=
  if s.p.i then .ok s else interruptEntry s irqVector s.cfg.irqCycles

/-- `reset()` (R350). It writes no bus byte. -/
def resetEntry (s : State) : Except Fault State := do
  let s :=
    ((s.setA 0).setX 0).setY 0
      |>.setP { c := false, z := false, i := false, d := false, b := false, u := true, v := false, n := false }
      |>.setSp 0xFD
      |>.setOpcode 0 |>.setFetched 0 |>.setAddrAbs 0 |>.setAddrRel 0 |>.setMode .imp
  let target ← memRead16 s resetVector
  return (s.setPc target).setRemaining s.cfg.resetCycles

/-- The host writes one bus byte between calls (R150). -/
def hostWrite (s : State) (addr : Addr) (v : Byte) : Host.Outcome State Fault Refusal :=
  if s.inBus addr then .next (s.setMem (s.mem.write addr.toNat v)) else .refused .hostWriteOutsideBus

/-! ## The frame of one executing pulse (R131, R134) -/

/-- What an operation function answers (R138): the state, the operation extra `ox`, the branch penalty `bx`. -/
structure Done where
  state : State
  ox : Bool
  bx : Nat

/-- The answer of an operation. -/
def done (s : State) (ox : Bool := false) (bx : Nat := 0) : Except Fault Done := .ok ⟨s, ox, bx⟩

/-- The start of an executing pulse (R131): `opcode`, `P.U <- 1`, PC past the opcode byte. -/
def State.beginPulse (s : State) (opcode : Byte) : State :=
  ((s.setOpcode opcode).setP { s.p with u := true }).setPc (s.pc + 1)

/-- The end of an executing pulse of cost `cost` (R131, R135): this pulse is already spent. -/
def State.endPulse (s : State) (cost : Nat) : State :=
  (s.setRemaining (cost - 1)).setP { s.p with u := true }

/-- A Busy pulse (R136). -/
def State.busyPulse (s : State) : State := s.setRemaining (s.remaining - 1)

/-- The outcome of a computation that may fault. -/
def outcome : Except Fault State → Host.Outcome State Fault Refusal
  | .ok s => .next s
  | .error f => .fault f

/-! ## Fetching an instruction's bytes (R80, R131) -/

/-- Read `n` bytes from an address on, each address taken mod 65536. -/
def fetchBytes (s : State) : Nat → Addr → Except Fault (List Byte)
  | 0, _ => .ok []
  | n + 1, addr => do
    let b ← memRead s addr
    let bs ← fetchBytes s n (addr + 1)
    return b :: bs

/-- The instruction at PC: the opcode byte, then the operand bytes its mode has, in address order. -/
def fetchInstr (s : State) : Except Fault Instr := do
  let opcode ← memRead s s.pc
  let bs ← fetchBytes s (descriptor opcode).mode.operandBytes (s.pc + 1)
  return decodeBytes opcode (bs.getD 0 0) (bs.getD 1 0)

end Sys2Proof.Machine
end

