-- ==== Sys2Proof/Machine/Operands.lean ====
section
/-! DEFINITION. The addressing-mode resolver (R100 to R115), the operand read (R114) and the write-back
(R160), and the frame that runs an operation after its mode (R131, R132). The operand bytes come with
the instruction; a state here has its PC just past the opcode byte, as when a mode function starts. -/

namespace Sys2Proof.Machine

open Sys2Proof

/-! ## The effective address -/

/-- The pointer bytes a mode reads, in the order of its rule (R110 to R112). -/
def pointerReads (o : Operand) (s : State) : List Addr :=
  match o with
  | .ind p => [cat (hi p) (lo p + 1), p]
  | .izx z => [zext16 (z + s.x), zext16 (z + s.x + 1)]
  | .izy z => [zext16 z, zext16 (z + 1)]
  | .imp | .imm _ | .zp _ | .zpx _ | .zpy _ | .rel _ | .abs _ | .abx _ | .aby _ => []

/-- The 16-bit base an index is added to, for the modes that can cross a page (R108, R109, R112). -/
def indexBase (o : Operand) (s : State) : Addr :=
  match o with
  | .abx w | .aby w => w
  | .izy z => cat (s.byteAt (zext16 (z + 1))) (s.byteAt (zext16 z))
  | .imp | .imm _ | .zp _ | .zpx _ | .zpy _ | .rel _ | .abs _ | .ind _ | .izx _ => 0

/-- `addr_abs` of each mode (R102 to R112); IMP and REL leave it (R115). -/
def effAddr (o : Operand) (s : State) : Addr :=
  match o with
  | .imp | .rel _ => s.addrAbs
  | .imm _ => s.pc
  | .zp z => zext16 z
  | .zpx z => zext16 (z + s.x)
  | .zpy z => zext16 (z + s.y)
  | .abs w => w
  | .abx w => w + zext16 s.x
  | .aby w => w + zext16 s.y
  | .ind p => cat (s.byteAt (cat (hi p) (lo p + 1))) (s.byteAt p)
  | .izx z => cat (s.byteAt (zext16 (z + s.x + 1))) (s.byteAt (zext16 (z + s.x)))
  | .izy z => indexBase (.izy z) s + zext16 s.y

/-- The mode extra `mx` (R108, R109, R112, R113): the index leaves the base's page. -/
def pageCrossed (o : Operand) (s : State) : Bool :=
  match o with
  | .abx _ | .aby _ | .izy _ => hi (effAddr o s) != hi (indexBase o s)
  | .imp | .imm _ | .zp _ | .zpx _ | .zpy _ | .rel _ | .abs _ | .ind _ | .izx _ => false

/-- `addr_rel` (R106); every other mode leaves it. -/
def relOffset (o : Operand) (s : State) : Addr :=
  match o with
  | .rel d => sext16 d
  | .imp | .imm _ | .zp _ | .zpx _ | .zpy _ | .abs _ | .abx _ | .aby _ | .ind _ | .izx _ | .izy _ =>
    s.addrRel

/-- Read the given addresses in order, for the fault one of them may raise. -/
def checkReads (s : State) : List Addr → Except Fault Unit
  | [] => .ok ()
  | addr :: rest => do
    let _ ← memRead s addr
    checkReads s rest

/-- The addressing-mode function (R100): the pointer reads, PC past the operand bytes, the mode tag, the
effective address or offset, and for IMP the copy of A into `fetched` (R101). -/
def resolve (o : Operand) (s : State) : Except Fault (State × Bool) := do
  checkReads s (pointerReads o s)
  let s' :=
    (((s.setMode o.mode).setAddrAbs (effAddr o s)).setAddrRel (relOffset o s)).setPc
      (s.pc + BitVec.ofNat 16 o.mode.operandBytes)
  let s' := if o.mode = .imp then s'.setFetched s.a else s'
  return (s', pageCrossed o s)

/-! ## The operand value -/

/-- `FetchOperand()` (R114). The IMM byte stands at `addr_abs` and came with the instruction, so it is
taken from there. DEDUCED (safe, assumption 6). -/
def fetchOperand (o : Operand) (s : State) : Except Fault State :=
  match o with
  | .imp => .ok s
  | .imm v => .ok (s.setFetched v)
  | .zp _ | .zpx _ | .zpy _ | .rel _ | .abs _ | .abx _ | .aby _ | .ind _ | .izx _ | .izy _ => do
    let v ← memRead s s.addrAbs
    return s.setFetched v

/-- `WriteBack(v)` (R160): to A in the implied mode, otherwise to the byte at `addr_abs`. -/
def writeBack (s : State) (v : Byte) : Except Fault State :=
  if s.mode = .imp then .ok (s.setA v) else memWrite s s.addrAbs v

/-- The value the operand has in a state: the immediate byte, A, or the byte at the effective address. -/
def operandValue (o : Operand) (s : State) : Byte :=
  match o with
  | .imp => s.a
  | .imm v => v
  | .zp _ | .zpx _ | .zpy _ | .rel _ | .abs _ | .abx _ | .aby _ | .ind _ | .izx _ | .izy _ =>
    s.byteAt (effAddr o s)

/-! ## One executing pulse -/

/-- The executing pulse of an instruction (R131, R132): its mode, then its operation, then the cost
`base + bx + (mx AND ox)` (R134). A term without an encoding is no instruction. -/
def pulse (i : Instr) (s : State) (op : State → Except Fault Done) : Host.Outcome State Fault Refusal :=
  match i.opcode with
  | none => .refused .noEncoding
  | some c => outcome do
    let (s, mx) ← resolve i.operand (s.beginPulse c)
    let r ← op s
    return r.state.endPulse ((descriptor c).cycles + r.bx + (mx && r.ox).toNat)

/-- An operation that only moves registers and flags. -/
def registerOp (f : State → State) (s : State) : Except Fault Done := done (f s)

/-- An operation on the operand's value that writes no bus byte: the result is stored by `f`. -/
def readOp (o : Operand) (ox : Bool) (f : State → Byte → State) (s : State) : Except Fault Done := do
  let s ← fetchOperand o s
  done (f s s.fetched) (ox := ox)

/-- A read-modify-write (R160 to R166): fetch, compute, set the flags, write back. -/
def modifyOp (o : Operand) (f : Status → Byte → Result) (s : State) : Except Fault Done := do
  let s ← fetchOperand o s
  let r := f s.p s.fetched
  let s ← writeBack (s.setP r.status) r.value
  done s

/-- A store (R263 to R265): one write at `addr_abs`, no read. -/
def storeOp (v : State → Byte) (s : State) : Except Fault Done := do
  let s ← memWrite s s.addrAbs (v s)
  done s

/-- `Branch(cond)` (R225). The page compared is that of PC after the branch (R225, R113). R232's corner case
calls a branch at 0xFFFE with a positive displacement a page crossing, but PC after that branch is 0x0000
(D2), in the target's page: where the two differ the pseudocode is followed, 3 cycles in all.
DESIGN CHOICE (unsafe, assumption 14). -/
def branchOp (cond : Status → Bool) (s : State) : Except Fault Done :=
  if cond s.p then
    let target := s.pc + s.addrRel
    done (s.setPc target) (bx := 1 + (hi target != hi s.pc).toNat)
  else done s

/-- Put a result into A with its status. -/
def State.putA (s : State) (r : Result) : State := (s.setA r.value).setP r.status

/-- Put a result into X with its status. -/
def State.putX (s : State) (r : Result) : State := (s.setX r.value).setP r.status

/-- Put a result into Y with its status. -/
def State.putY (s : State) (r : Result) : State := (s.setY r.value).setP r.status

end Sys2Proof.Machine
end

