-- ==== Sys2Proof/Machine/Arithmetic.lean ====
section
/-! DEFINITION. The accumulator arithmetic and logic family (spec 42): ADC, SBC, AND, ORA, EOR, CMP, CPX,
CPY, BIT. No operation here writes the bus. -/

namespace Sys2Proof.Machine

open Sys2Proof

/-- ADC and SBC after the operand read (R191 to R193): binary when D = 0 or `DECIMAL_MODE` is `binary`,
decimal when it is `nmos`, and the spec's refusal when it is `unmodelled`. -/
def addOrSubtract (o : Operand) (binary nmos : Status → Byte → Byte → Result) (s : State) :
    Except Fault Done := do
  let s ← fetchOperand o s
  if s.p.d then
    match s.cfg.decimalMode with
    | .unmodelled => .error (.decimalUnmodelled s.opcode)
    | .nmos => done (s.putA (nmos s.p s.a s.fetched)) (ox := true)
    | .binary => done (s.putA (binary s.p s.a s.fetched)) (ox := true)
  else done (s.putA (binary s.p s.a s.fetched)) (ox := true)

/-- ADC (R192). -/
def execAdc (o : Operand) (s : State) : Host.Outcome State Fault Refusal :=
  pulse (.adc o) s (addOrSubtract o addBinary addNmos)

/-- SBC (R193): ADC of the inverted operand. -/
def execSbc (o : Operand) (s : State) : Host.Outcome State Fault Refusal :=
  pulse (.sbc o) s (addOrSubtract o (fun p a m => addBinary p a (~~~m)) subNmos)

/-- AND (R194). -/
def execAnd (o : Operand) (s : State) : Host.Outcome State Fault Refusal :=
  pulse (.and o) s (readOp o true fun s m => s.putA (withZN s.p (s.a &&& m)))

/-- ORA (R195). -/
def execOra (o : Operand) (s : State) : Host.Outcome State Fault Refusal :=
  pulse (.ora o) s (readOp o true fun s m => s.putA (withZN s.p (s.a ||| m)))

/-- EOR (R196). -/
def execEor (o : Operand) (s : State) : Host.Outcome State Fault Refusal :=
  pulse (.eor o) s (readOp o true fun s m => s.putA (withZN s.p (s.a ^^^ m)))

/-- CMP (R198). -/
def execCmp (o : Operand) (s : State) : Host.Outcome State Fault Refusal :=
  pulse (.cmp o) s (readOp o true fun s m => s.setP (compareBytes s.p s.a m))

/-- CPX (R199). -/
def execCpx (o : Operand) (s : State) : Host.Outcome State Fault Refusal :=
  pulse (.cpx o) s (readOp o false fun s m => s.setP (compareBytes s.p s.x m))

/-- CPY (R200). -/
def execCpy (o : Operand) (s : State) : Host.Outcome State Fault Refusal :=
  pulse (.cpy o) s (readOp o false fun s m => s.setP (compareBytes s.p s.y m))

/-- BIT (R201). -/
def execBit (o : Operand) (s : State) : Host.Outcome State Fault Refusal :=
  pulse (.bit o) s (readOp o false fun s m => s.setP (bitTest s.p s.a m))

end Sys2Proof.Machine
end

