-- ==== Sys2Proof/Machine/ControlTransfer.lean ====
section
/-! DEFINITION. The control-transfer family (spec 43): JMP, JSR, RTS, RTI, BRK and the eight branches. -/

namespace Sys2Proof.Machine

open Sys2Proof

/-- JMP (R220). -/
def execJmp (o : Operand) (s : State) : Host.Outcome State Fault Refusal :=
  pulse (.jmp o) s (registerOp fun s => s.setPc s.addrAbs)

/-- JSR (R221): push the address of the JSR's own last byte, then jump. -/
def execJsr (target : Addr) (s : State) : Host.Outcome State Fault Refusal :=
  pulse (.jsr target) s fun s => do
    let s ← push16 s (s.pc - 1)
    done (s.setPc s.addrAbs)

/-- RTS (R222). -/
def execRts (s : State) : Host.Outcome State Fault Refusal :=
  pulse .rts s fun s => do
    let (w, s) ← pull16 s
    done (s.setPc (w + 1))

/-- RTI (R223). -/
def execRti (s : State) : Host.Outcome State Fault Refusal :=
  pulse .rti s fun s => do
    let s ← returnFromException s
    done s

/-- BRK (R224): skip the signature byte, enter through the IRQ/BRK vector with B set in the pushed
status, and leave the live B clear. -/
def execBrk (s : State) : Host.Outcome State Fault Refusal :=
  pulse .brk s fun s => do
    let s ← enterException (s.setPc (s.pc + 1)) irqVector true
    done (s.setP { s.p with b := false })

/-- BPL, branch if plus (R226). -/
def execBpl (d : Byte) (s : State) : Host.Outcome State Fault Refusal :=
  pulse (.bpl d) s (branchOp fun p => !p.n)

/-- BMI, branch if minus (R227). -/
def execBmi (d : Byte) (s : State) : Host.Outcome State Fault Refusal :=
  pulse (.bmi d) s (branchOp fun p => p.n)

/-- BVC, branch if overflow clear (R228). -/
def execBvc (d : Byte) (s : State) : Host.Outcome State Fault Refusal :=
  pulse (.bvc d) s (branchOp fun p => !p.v)

/-- BVS, branch if overflow set (R229). -/
def execBvs (d : Byte) (s : State) : Host.Outcome State Fault Refusal :=
  pulse (.bvs d) s (branchOp fun p => p.v)

/-- BCC, branch if carry clear (R230). -/
def execBcc (d : Byte) (s : State) : Host.Outcome State Fault Refusal :=
  pulse (.bcc d) s (branchOp fun p => !p.c)

/-- BCS, branch if carry set (R231). -/
def execBcs (d : Byte) (s : State) : Host.Outcome State Fault Refusal :=
  pulse (.bcs d) s (branchOp fun p => p.c)

/-- BNE, branch if not equal (R232). -/
def execBne (d : Byte) (s : State) : Host.Outcome State Fault Refusal :=
  pulse (.bne d) s (branchOp fun p => !p.z)

/-- BEQ, branch if equal (R233). -/
def execBeq (d : Byte) (s : State) : Host.Outcome State Fault Refusal :=
  pulse (.beq d) s (branchOp fun p => p.z)

end Sys2Proof.Machine
end

