-- ==== Sys2Proof/Machine/NoOperation.lean ====
section
/-! DEFINITION. NOP and the illegal no-op (spec 45). -/

namespace Sys2Proof.Machine

open Sys2Proof

/-- NOP (R300). -/
def execNop (s : State) : Host.Outcome State Fault Refusal := pulse .nop s fun s => done s

/-- The illegal no-op of an opcode byte (R301): it consumes its table cycle count and one byte. -/
def execXxx (opcode : Byte) (s : State) : Host.Outcome State Fault Refusal :=
  pulse (.xxx opcode) s fun s => done s

end Sys2Proof.Machine
end

