-- ==== Sys2Proof/Machine/ReadModifyWrite.lean ====
section
/-! DEFINITION. The read-modify-write family (spec 41): ASL, LSR, ROL, ROR, INC, DEC on memory or the
accumulator, and the register forms INX, INY, DEX, DEY. -/

namespace Sys2Proof.Machine

open Sys2Proof

/-- ASL (R161). -/
def execAsl (o : Operand) (s : State) : Host.Outcome State Fault Refusal :=
  pulse (.asl o) s (modifyOp o shiftLeft)

/-- LSR (R162). -/
def execLsr (o : Operand) (s : State) : Host.Outcome State Fault Refusal :=
  pulse (.lsr o) s (modifyOp o shiftRight)

/-- ROL (R163). -/
def execRol (o : Operand) (s : State) : Host.Outcome State Fault Refusal :=
  pulse (.rol o) s (modifyOp o rotateLeft)

/-- ROR (R164). -/
def execRor (o : Operand) (s : State) : Host.Outcome State Fault Refusal :=
  pulse (.ror o) s (modifyOp o rotateRight)

/-- INC (R165). -/
def execInc (o : Operand) (s : State) : Host.Outcome State Fault Refusal :=
  pulse (.inc o) s (modifyOp o increment)

/-- DEC (R166). -/
def execDec (o : Operand) (s : State) : Host.Outcome State Fault Refusal :=
  pulse (.dec o) s (modifyOp o decrement)

/-- INX (R167). -/
def execInx (s : State) : Host.Outcome State Fault Refusal :=
  pulse .inx s (registerOp fun s => s.putX (increment s.p s.x))

/-- INY (R168). -/
def execIny (s : State) : Host.Outcome State Fault Refusal :=
  pulse .iny s (registerOp fun s => s.putY (increment s.p s.y))

/-- DEX (R169). -/
def execDex (s : State) : Host.Outcome State Fault Refusal :=
  pulse .dex s (registerOp fun s => s.putX (decrement s.p s.x))

/-- DEY (R170). -/
def execDey (s : State) : Host.Outcome State Fault Refusal :=
  pulse .dey s (registerOp fun s => s.putY (decrement s.p s.y))

end Sys2Proof.Machine
end

