-- ==== Sys2Proof/Machine/TransferLoadStore.lean ====
section
/-! DEFINITION. The register-transfer and flag-set family (spec 44): loads, stores, transfers, stack
operations and flag instructions. -/

namespace Sys2Proof.Machine

open Sys2Proof

/-- LDA (R260). -/
def execLda (o : Operand) (s : State) : Host.Outcome State Fault Refusal :=
  pulse (.lda o) s (readOp o true fun s m => s.putA (withZN s.p m))

/-- LDX (R261). -/
def execLdx (o : Operand) (s : State) : Host.Outcome State Fault Refusal :=
  pulse (.ldx o) s (readOp o true fun s m => s.putX (withZN s.p m))

/-- LDY (R262). -/
def execLdy (o : Operand) (s : State) : Host.Outcome State Fault Refusal :=
  pulse (.ldy o) s (readOp o true fun s m => s.putY (withZN s.p m))

/-- STA (R263). -/
def execSta (o : Operand) (s : State) : Host.Outcome State Fault Refusal :=
  pulse (.sta o) s (storeOp fun s => s.a)

/-- STX (R264). -/
def execStx (o : Operand) (s : State) : Host.Outcome State Fault Refusal :=
  pulse (.stx o) s (storeOp fun s => s.x)

/-- STY (R265). -/
def execSty (o : Operand) (s : State) : Host.Outcome State Fault Refusal :=
  pulse (.sty o) s (storeOp fun s => s.y)

/-- TAX (R266). -/
def execTax (s : State) : Host.Outcome State Fault Refusal :=
  pulse .tax s (registerOp fun s => s.putX (withZN s.p s.a))

/-- TAY (R267). -/
def execTay (s : State) : Host.Outcome State Fault Refusal :=
  pulse .tay s (registerOp fun s => s.putY (withZN s.p s.a))

/-- TXA (R268). -/
def execTxa (s : State) : Host.Outcome State Fault Refusal :=
  pulse .txa s (registerOp fun s => s.putA (withZN s.p s.x))

/-- TYA (R269). -/
def execTya (s : State) : Host.Outcome State Fault Refusal :=
  pulse .tya s (registerOp fun s => s.putA (withZN s.p s.y))

/-- TSX (R270). -/
def execTsx (s : State) : Host.Outcome State Fault Refusal :=
  pulse .tsx s (registerOp fun s => s.putX (withZN s.p s.sp))

/-- TXS (R271): the one transfer that sets no flag. -/
def execTxs (s : State) : Host.Outcome State Fault Refusal :=
  pulse .txs s (registerOp fun s => s.setSp s.x)

/-- PHA (R272). -/
def execPha (s : State) : Host.Outcome State Fault Refusal :=
  pulse .pha s fun s => do
    let s ← push8 s s.a
    done s

/-- PHP (R273): bit 4 is set in the pushed byte only. -/
def execPhp (s : State) : Host.Outcome State Fault Refusal :=
  pulse .php s fun s => do
    let s := s.setP { s.p with u := true }
    let s ← push8 s (s.p.pushed true)
    done s

/-- PLA (R274). -/
def execPla (s : State) : Host.Outcome State Fault Refusal :=
  pulse .pla s fun s => do
    let (v, s) ← pull8 s
    done (s.putA (withZN s.p v))

/-- PLP (R275). -/
def execPlp (s : State) : Host.Outcome State Fault Refusal :=
  pulse .plp s fun s => do
    let (b, s) ← pull8 s
    done (s.setP (Status.ofPulled b))

/-- CLC (R276). -/
def execClc (s : State) : Host.Outcome State Fault Refusal :=
  pulse .clc s (registerOp fun s => s.setP { s.p with c := false })

/-- SEC (R277). -/
def execSec (s : State) : Host.Outcome State Fault Refusal :=
  pulse .sec s (registerOp fun s => s.setP { s.p with c := true })

/-- CLI (R278). -/
def execCli (s : State) : Host.Outcome State Fault Refusal :=
  pulse .cli s (registerOp fun s => s.setP { s.p with i := false })

/-- SEI (R279). -/
def execSei (s : State) : Host.Outcome State Fault Refusal :=
  pulse .sei s (registerOp fun s => s.setP { s.p with i := true })

/-- CLD (R280). -/
def execCld (s : State) : Host.Outcome State Fault Refusal :=
  pulse .cld s (registerOp fun s => s.setP { s.p with d := false })

/-- SED (R281). -/
def execSed (s : State) : Host.Outcome State Fault Refusal :=
  pulse .sed s (registerOp fun s => s.setP { s.p with d := true })

/-- CLV (R282). -/
def execClv (s : State) : Host.Outcome State Fault Refusal :=
  pulse .clv s (registerOp fun s => s.setP { s.p with v := false })

end Sys2Proof.Machine
end

