-- ==== Sys2Proof/Machine/Clock.lean ====
section
/-! DEFINITION. The clock pulse (R131), the host's calls (R150), and how a table word is laid out in
memory for the next fetch. -/

namespace Sys2Proof.Machine

open Sys2Proof

/-- One pulse of a core with no fault mark (R131): Idle fetches and executes a whole instruction, Busy
only counts down (R133, R136). -/
def clock (s : State) : Host.Outcome State Fault Refusal :=
  if s.remaining = 0 then
    match fetchInstr s with
    | .ok i => exec i s
    | .error f => .fault f
  else .next s.busyPulse

/-- An interrupt call: only an Idle core admits it (R150, R310). -/
def interruptCall (entry : State → Except Fault State) (s : State) : Host.Outcome State Fault Refusal :=
  if s.remaining = 0 then outcome (entry s) else .refused .hostCallWhileBusy

/-- One host action on a core with no fault mark (R150). -/
def hostAction (act : HostAction) (s : State) : Host.Outcome State Fault Refusal :=
  match act with
  | .clock => clock s
  | .reset => outcome (resetEntry s)
  | .nmi => interruptCall nmiEntry s
  | .irq => interruptCall irqEntry s
  | .writeBus addr v => hostWrite s addr v

/-- The next host action and the state from which it is made: the first listed call, or `clock()`. -/
def nextAction (s : State) : HostAction × State :=
  match s.host with
  | [] => (.clock, s)
  | act :: rest => (act, s.setHost rest)

/-- Store a byte where the bus has the address; outside the bus nothing is stored. -/
def placeByte (s : State) (addr : Addr) (v : Byte) : State :=
  if s.inBus addr then s.setMem (s.mem.write addr.toNat v) else s

/-- The bytes of a table word at PC, PC + 1 and PC + 2. -/
def placeWord (s : State) (nbits w : Nat) : State :=
  let bs := tableBytes nbits w
  placeByte (placeByte (placeByte s s.pc bs.1) (s.pc + 1) bs.2.1) (s.pc + 2) bs.2.2

end Sys2Proof.Machine
end

