-- ==== Sys2Proof/Machine/Step.lean ====
section
/-! DEFINITION. One step: one action of the host (R150, R151). A marked core takes no step (R45). -/

namespace Sys2Proof.Machine

open Sys2Proof

/-- One host action. With no call listed in `host` the host calls `clock()`. A core whose fault mark is
set has no further step of any kind, RESET included (R45, R330). -/
def step (s : State) : Host.Outcome State Fault Refusal :=
  match s.fault with
  | some f => .fault f
  | none => hostAction (nextAction s).1 (nextAction s).2

/-- What a step that faults leaves: the mark, the parameters, the host's later calls, and any value of the
rest (R140, R332). -/
def State.faultedWith (s : State) (f : Fault) : State :=
  { faultedState s with fault := some f, cfg := s.cfg, host := s.host.tail }

/-- The state the host finds after one step (R140, R151). A step that faults leaves the mark and nothing the
model promises beside it (R332); a core that is marked already has taken no step (R45). -/
def State.afterStep (s : State) : State :=
  match step s with
  | .next t => t
  | .fault f => if s.fault.isSome then s else s.faultedWith f
  | .refused _ => s

/-- The state whose very next step fetches and runs the given table word: an Idle core without a fault
mark, no host call listed, the bytes at PC. It stands for the platform's loading of a program. -/
def State.withFetchWord (s : State) (nbits w : Nat) : State :=
  placeWord (((s.setRemaining 0).setFault none).setHost []) nbits w

end Sys2Proof.Machine
end

