-- ==== Sys2Proof/Safety.lean ====
section
/-! DEFINITION. What claims are made of: the part of a state a claim may read at an instruction boundary
(R37), the invariant of a running core, the accesses an instruction needs the bus to have, and the cost
of an instruction (R134). -/

namespace Sys2Proof.Machine

open Sys2Proof

/-- What a claim may read of a core at an instruction boundary, beside the bus: the execution cache but
for `remaining` is left out (R37). -/
structure Boundary where
  a : Byte
  x : Byte
  y : Byte
  sp : Byte
  pc : Addr
  p : Status
  remaining : Nat
  fault : Option Fault
  cfg : Config
  host : List HostAction
deriving DecidableEq, Repr

/-- The boundary view of a state. -/
def State.boundary (s : State) : Boundary :=
  { a := s.a, x := s.x, y := s.y, sp := s.sp, pc := s.pc, p := s.p, remaining := s.remaining
    fault := s.fault, cfg := s.cfg, host := s.host }

/-- The largest count `remaining` can hold (R43): an instruction's 8, or the cost of an entry point. -/
def Config.maxRemaining (c : Config) : Nat :=
  max 8 (max c.resetCycles (max c.nmiCycles c.irqCycles))

/-- The invariant of a running core at the end of a step: parameters in range (R5), the bus in canonical
form and inside `MEM_SIZE` (R53), U set and B clear (R28, R34), no fault mark (R45), `remaining` within
its bound (R43). -/
def State.inv (s : State) : Bool :=
  s.cfg.wf && s.mem.wf && s.mem.within s.cfg.memSize && s.p.u && !s.p.b && s.fault.isNone
    && decide (s.remaining ≤ Config.maxRemaining s.cfg)

/-! ## Which bytes an instruction needs the bus to have (R330) -/

/-- The pointer bytes of the operand's mode are on the bus (R110 to R112). -/
def pointersInBus (o : Operand) (s : State) : Bool := (pointerReads o s).all s.inBus

/-- The operand's byte is on the bus, where the operand is a byte of the bus. -/
def operandInBus (o : Operand) (s : State) : Bool :=
  o.mode = .imp || o.mode = .imm || s.inBus (effAddr o s)

/-- The first of a list of accesses, in the order they are made, that the bus does not have: the access that
faults (R330, R317). -/
def State.firstOutside (s : State) (accesses : List Addr) : Option Addr :=
  accesses.find? fun addr => !s.inBus addr

/-- The accesses of an entry in their order (R312): three pushes, the two bytes of the vector. -/
def entryAccesses (s : State) (vector : Addr) : List Addr :=
  [stackAddr s.sp, stackAddr (s.sp - 1), stackAddr (s.sp - 2), vector, vector + 1]

/-- The three stack bytes an entry writes and the two vector bytes it reads are on the bus (R312). -/
def entryInBus (s : State) (vector : Addr) : Bool :=
  s.inBus (stackAddr s.sp) && s.inBus (stackAddr (s.sp - 1)) && s.inBus (stackAddr (s.sp - 2))
    && s.inBus vector && s.inBus (vector + 1)

/-- ADC and SBC add in binary in this state (R191): D = 0, or `DECIMAL_MODE` is `binary`. -/
abbrev State.addsInBinary (s : State) : Prop := s.p.d = false ∨ s.cfg.decimalMode = .binary

/-! ## What an instruction leaves -/

/-- The bus with one byte stored. -/
def storeAt (bus : Nat → Byte) (addr : Addr) (v : Byte) : Nat → Byte :=
  fun k => if k = addr.toNat then v else bus k

/-- The bus of a state. -/
def State.bus (s : State) : Nat → Byte := fun k => s.mem.read k

/-- The executing pulse of `i` from `s` answers a next state, with this boundary view and these bus bytes. -/
def Completes (i : Instr) (s : State) (b : Boundary) (bus : Nat → Byte) : Prop :=
  ∃ t, exec i s = .next t ∧ t.boundary = b ∧ ∀ k, t.mem.read k = bus k

/-- The cost of an instruction that takes no branch (R134): its base count, and one more where its
operation owes the page-crossing cycle and the mode crosses a page. -/
def costOf (i : Instr) (ox : Bool) (s : State) : Nat :=
  i.baseCycles + (if ox = true ∧ pageCrossed i.operand s = true then 1 else 0)

/-- What the executing pulse of an instruction that does not jump leaves, apart from its own effect: PC
past the instruction (R100), U set (R28), and the pulses it still owes (R134, R135). -/
def State.passed (s : State) (i : Instr) (ox : Bool) : Boundary :=
  { s.boundary with
    pc := s.pc + BitVec.ofNat 16 i.length
    p := { s.p with u := true }
    remaining := costOf i ox s - 1 }

/-- A status with Z and N of a result (R29) and U set (R28). -/
def znOf (p : Status) (v : Byte) : Status :=
  { p with z := decide (v.toNat = 0), n := decide (128 ≤ v.toNat), u := true }

/-- The cells a rule lists for a mnemonic: in each listed mode that opcode and base count, in every other
mode no encoding (R87). -/
def EncodedAs (mk : Operand → Instr) (cells : List (Mode × Byte × Nat)) : Prop :=
  ∀ o, match cells.find? (fun r => r.1 = o.mode) with
    | some r => (mk o).opcode = some r.2.1 ∧ (mk o).baseCycles = r.2.2
    | none => (mk o).opcode = none

/-- The encoding of an instruction of one mode: opcode, base count and length. -/
def EncodedWith (i : Instr) (opcode : Byte) (cycles length : Nat) : Prop :=
  i.opcode = some opcode ∧ i.baseCycles = cycles ∧ i.length = length

/-- The first two columns of R302's table: each illegal byte with its cycle count. -/
def illegalCounts : List (Byte × Nat) :=
  [(0x02, 2), (0x03, 8), (0x04, 3), (0x07, 5), (0x0B, 2), (0x0C, 4), (0x0F, 6)]
    ++ [(0x12, 2), (0x13, 8), (0x14, 4), (0x17, 6), (0x1A, 2), (0x1B, 7), (0x1C, 4), (0x1F, 7)]
    ++ [(0x22, 2), (0x23, 8), (0x27, 5), (0x2B, 2), (0x2F, 6)]
    ++ [(0x32, 2), (0x33, 8), (0x34, 4), (0x37, 6), (0x3A, 2), (0x3B, 7), (0x3C, 4), (0x3F, 7)]
    ++ [(0x42, 2), (0x43, 8), (0x44, 3), (0x47, 5), (0x4B, 2), (0x4F, 6)]
    ++ [(0x52, 2), (0x53, 8), (0x54, 4), (0x57, 6), (0x5A, 2), (0x5B, 7), (0x5C, 4), (0x5F, 7)]
    ++ [(0x62, 2), (0x63, 8), (0x64, 3), (0x67, 5), (0x6B, 2), (0x6F, 6)]
    ++ [(0x72, 2), (0x73, 8), (0x74, 4), (0x77, 6), (0x7A, 2), (0x7B, 7), (0x7C, 4), (0x7F, 7)]
    ++ [(0x80, 2), (0x82, 2), (0x83, 6), (0x87, 3), (0x89, 2), (0x8B, 2), (0x8F, 4)]
    ++ [(0x92, 2), (0x93, 6), (0x97, 4), (0x9B, 5), (0x9C, 5), (0x9E, 5), (0x9F, 5)]
    ++ [(0xA3, 6), (0xA7, 3), (0xAB, 2), (0xAF, 4)]
    ++ [(0xB2, 2), (0xB3, 5), (0xB7, 4), (0xBB, 4), (0xBF, 4)]
    ++ [(0xC2, 2), (0xC3, 8), (0xC7, 5), (0xCB, 2), (0xCF, 6)]
    ++ [(0xD2, 2), (0xD3, 8), (0xD4, 4), (0xD7, 6), (0xDA, 2), (0xDB, 7), (0xDC, 4), (0xDF, 7)]
    ++ [(0xE2, 2), (0xE3, 8), (0xE7, 5), (0xEB, 2), (0xEF, 6)]
    ++ [(0xF2, 2), (0xF3, 8), (0xF4, 4), (0xF7, 6), (0xFA, 2), (0xFB, 7), (0xFC, 4), (0xFF, 7)]

/-! ## Sequences -/

/-- Push the bytes of a list, the first one first. -/
def pushAll (s : State) : List Byte → Except Fault State
  | [] => .ok s
  | v :: vs => do
    let s ← push8 s v
    pushAll s vs

/-- Pull a number of bytes, the first one pulled first in the answer. -/
def pullMany (s : State) : Nat → Except Fault (List Byte × State)
  | 0 => .ok ([], s)
  | n + 1 => do
    let (v, s) ← pull8 s
    let (vs, s) ← pullMany s n
    return (v :: vs, s)

/-- The instructions that can write a bus byte (R62): stores, read-modify-writes on memory, and pushes. -/
def storesToBus : Instr → Bool
  | .asl o | .lsr o | .rol o | .ror o => o.mode != .imp
  | .inc _ | .dec _ | .sta _ | .stx _ | .sty _ | .jsr _ | .brk | .pha | .php => true
  | .inx | .iny | .dex | .dey | .adc _ | .sbc _ | .and _ | .ora _ | .eor _ | .cmp _ | .cpx _ | .cpy _
  | .bit _ | .jmp _ | .rts | .rti | .bpl _ | .bmi _ | .bvc _ | .bvs _ | .bcc _ | .bcs _ | .bne _
  | .beq _ | .lda _ | .ldx _ | .ldy _ | .tax | .tay | .txa | .tya | .tsx | .txs | .pla | .plp | .clc
  | .sec | .cli | .sei | .cld | .sed | .clv | .nop | .xxx _ => false

/-- A step is safe when it neither faults nor is refused. -/
def SafeStep (s : State) : Prop := ∃ t, step s = .next t

end Sys2Proof.Machine
end

