-- ==== Sys2Proof/Certificates/Slice0/Obligations.lean ====
section
/-! DEFINITION. The statements about the model. A statement about an instruction gives the next state's
boundary view (R37) and every bus byte, so it says the result, the completion and the frame at once.
"Idle" is `remaining = 0`; `exec` is the executing pulse, which `step` reaches from an Idle core. -/

open Sys2Proof Sys2Proof.Machine

/-! ## Reset and the invariant -/

/-- R350: what `reset()` leaves, from any unmarked state, Idle or Busy, on any bus that has the RESET
vector; on a bus that lacks a byte of it, the call stops with AddressingFault of the first such byte
(R330). The values S = 0xFD, 0xFFFC, RESET_CYCLES and the cache values are the spec's decisions D5, D6,
D7, D22, D24; the fault is D26. -/
def Obligations.ResetEntryLeavesResetState : Prop :=
  ∀ (s : State) (rest : List HostAction), s.fault = none → s.host = .reset :: rest →
    (s.inBus 0xFFFC = true → s.inBus 0xFFFD = true →
      ∃ t, step s = .next t ∧
        t.boundary =
          { a := 0, x := 0, y := 0, sp := 0xFD, pc := cat (s.byteAt 0xFFFD) (s.byteAt 0xFFFC)
            p := { c := false, z := false, i := false, d := false, b := false, u := true, v := false, n := false }
            remaining := s.cfg.resetCycles, fault := none, cfg := s.cfg, host := rest } ∧
        t.opcode = 0 ∧ t.fetched = 0 ∧ t.addrAbs = 0 ∧ t.addrRel = 0 ∧ t.mode = .imp ∧
        ∀ k, t.mem.read k = s.mem.read k) ∧
    ∀ addr, s.firstOutside [0xFFFC, 0xFFFD] = some addr → step s = .fault (.addressingFault addr)

/-- `State.reset` is what `reset()` leaves of any unmarked state over a bus that lists nothing with the
standard parameters (R351). The bytes such a bus reads as are the model's choice, assumption 1. -/
def Obligations.ResetStateIsWhatResetLeaves : Prop :=
  ∀ s : State, s.fault = none → s.host = [.reset] → s.cfg = Config.standard → s.mem = [] →
    step s = .next State.reset

/-- The invariant of a running core holds right after reset. -/
def Obligations.ResetStateMeetsInvariant : Prop :=
  State.reset.inv = true ∧ State.reset.a = 0 ∧ State.reset.x = 0 ∧ State.reset.y = 0 ∧
    State.reset.sp = 0xFD ∧ State.reset.p.toByte = 0x20 ∧ State.reset.remaining = 7

/-- Every step keeps the invariant: parameters in range, the bus canonical and inside MEM_SIZE, U set, B
clear, no fault mark, `remaining` bounded (R5, R28, R34, R43, R45, R53). The canonical form of the bus
list is the model's choice, assumption 1. -/
def Obligations.EveryStepKeepsInvariant : Prop :=
  ∀ s t : State, s.inv = true → step s = .next t → t.inv = true

/-! ## Encoding -/

/-- Decoding the bytes of a well-formed instruction gives it back, whatever follows, with every operand at
every value its field admits (R80, R82, R83). -/
def Obligations.DecodingAnEncodingGivesTheInstruction : Prop :=
  ∀ (i : Instr) (rest : List Byte), i.wellFormed = true → decode (encode i ++ rest) = .ok (i, rest)

/-- Every opcode byte decodes (R80), to a well-formed instruction that encodes to the bytes read. -/
def Obligations.EveryByteDecodesAndEncodesBack : Prop :=
  ∀ (c b1 b2 : Byte) (rest : List Byte), ∃ (i : Instr) (n : Nat),
    n ≤ 3 ∧ i.wellFormed = true ∧ i.length = n ∧
      encode i = [c, b1, b2].take n ∧
      decode (c :: b1 :: b2 :: rest) = .ok (i, [c, b1, b2].drop n ++ rest)

/-- R86: the four entries the source fixes, with their operand bytes at every value and their cycle counts:
LDA immediate 2, STA absolute 4, JMP absolute exactly 3 from any address, STA (zp),Y exactly 6 regardless
of page crossing. -/
def Obligations.SourceFixedEntriesAreReproduced : Prop :=
  (∀ (v : Byte) (rest : List Byte), decode (0xA9 :: v :: rest) = .ok (.lda (.imm v), rest)) ∧
  (∀ (v : Byte) (s : State), ∃ t, exec (.lda (.imm v)) s = .next t ∧ t.remaining + 1 = 2) ∧
  (∀ (l h : Byte) (rest : List Byte), decode (0x8D :: l :: h :: rest) = .ok (.sta (.abs (cat h l)), rest)) ∧
  (∀ (w : Addr) (s : State), s.inBus w = true →
    ∃ t, exec (.sta (.abs w)) s = .next t ∧ t.remaining + 1 = 4) ∧
  (∀ (l h : Byte) (rest : List Byte), decode (0x4C :: l :: h :: rest) = .ok (.jmp (.abs (cat h l)), rest)) ∧
  (∀ (w : Addr) (s : State), ∃ t, exec (.jmp (.abs w)) s = .next t ∧ t.remaining + 1 = 3) ∧
  (∀ (z : Byte) (rest : List Byte), decode (0x91 :: z :: rest) = .ok (.sta (.izy z), rest)) ∧
  (∀ (z : Byte) (s : State), pointersInBus (.izy z) s = true → s.inBus (effAddr (.izy z) s) = true →
    ∃ t, exec (.sta (.izy z)) s = .next t ∧ t.remaining + 1 = 6)

/-- Words of every family written out from the patterns of the opcode map decode to their instructions.
The map beyond R86's four entries is the spec's decision D19; the illegal bytes are D18. -/
def Obligations.WordsOfEveryFamilyDecode : Prop :=
  decodeTableWord 8 0b00001010 = some (.asl .imp) ∧
  decodeTableWord 24 0b00000010_00000000_11101110 = some (.inc (.abs 0x0200)) ∧
  decodeTableWord 16 0b00000101_01101001 = some (.adc (.imm 0x05)) ∧
  decodeTableWord 24 0b00010010_11111111_11011101 = some (.cmp (.abx 0x12FF)) ∧
  decodeTableWord 24 0b00010000_11111111_01101100 = some (.jmp (.ind 0x10FF)) ∧
  decodeTableWord 16 0b11111011_11010000 = some (.bne 0xFB) ∧
  decodeTableWord 16 0b00100000_10100001 = some (.lda (.izx 0x20)) ∧
  decodeTableWord 16 0b11111111_10110110 = some (.ldx (.zpy 0xFF)) ∧
  decodeTableWord 8 0b01001000 = some .pha ∧
  decodeTableWord 8 0b11101010 = some .nop ∧
  decodeTableWord 8 0b00000010 = some (.xxx 0x02)

/-- The base counts by class (R370, R85; the spec's decision D19 but for R86's four entries). -/
def Obligations.BaseCyclesByClass : Prop :=
  ∀ i : Instr, i.wellFormed = true →
    match i with
    | .asl o | .lsr o | .rol o | .ror o | .inc o | .dec o =>
      i.baseCycles = match o.mode with
        | .imp => 2 | .zp => 5 | .zpx | .abs => 6 | _ => 7
    | .sta o | .stx o | .sty o =>
      i.baseCycles = match o.mode with
        | .zp => 3 | .zpx | .zpy | .abs => 4 | .abx | .aby => 5 | _ => 6
    | .adc o | .sbc o | .and o | .ora o | .eor o | .cmp o | .cpx o | .cpy o | .bit o
    | .lda o | .ldx o | .ldy o =>
      i.baseCycles = match o.mode with
        | .imm => 2 | .zp => 3 | .izx => 6 | .izy => 5 | _ => 4
    | .jmp o => i.baseCycles = if o.mode = .abs then 3 else 5
    | .jsr _ | .rts | .rti => i.baseCycles = 6
    | .brk => i.baseCycles = 7
    | .pha | .php => i.baseCycles = 3
    | .pla | .plp => i.baseCycles = 4
    | .xxx _ => 2 ≤ i.baseCycles ∧ i.baseCycles ≤ 8
    | _ => i.baseCycles = 2

/-! ## The step -/

/-- R131: on an unmarked Idle core whose bytes at PC decode to `i`, the clock pulse is the executing pulse
of `i`; only the bytes the instruction has must be on the bus. A listed `clock()` is the same pulse. -/
def Obligations.IdleStepExecutesTheDecodedInstruction : Prop :=
  ∀ (s : State) (i : Instr) (rest : List Byte), s.fault = none → s.remaining = 0 →
    decode [s.byteAt s.pc, s.byteAt (s.pc + 1), s.byteAt (s.pc + 2)] = .ok (i, rest) →
    (∀ k < i.length, s.inBus (s.pc + BitVec.ofNat 16 k) = true) →
    (s.host = [] → step s = exec i s) ∧
    (∀ hs, s.host = .clock :: hs → step s = exec i (s.setHost hs))

/-- R136: a Busy pulse changes nothing but `remaining`, which it lowers by one. -/
def Obligations.BusyStepOnlyCountsDown : Prop :=
  ∀ s : State, s.fault = none → s.remaining ≠ 0 →
    (s.host = [] → step s = .next (s.setRemaining (s.remaining - 1))) ∧
    (∀ hs, s.host = .clock :: hs → step s = .next ((s.setHost hs).setRemaining (s.remaining - 1)))

/-- R135, R371: an instruction of cost N occupies exactly N pulses: its executing pulse and then Busy pulses
that change nothing else, after which the core is Idle. -/
def Obligations.InstructionOccupiesExactlyItsCost : Prop :=
  ∀ s t : State, s.host = [] → s.remaining = 0 → step s = .next t →
    ∀ k, k ≤ t.remaining → core.run (k + 1) s = .next (t.setRemaining (t.remaining - k))

/-- R45, R330, R332: a step that faults leaves the mark; and from every marked state, whatever its other
fields and whatever the host calls, RESET included, the step stops with the marked fault and the mark
stays. Of a faulted state only `fault` is read (R332). The mark is the spec's decision D26. -/
def Obligations.FaultMarkIsPermanent : Prop :=
  ∀ (s : State) (f : Fault),
    (step s = .fault f → s.afterStep.fault = some f) ∧
    (s.fault = some f → step s = .fault f ∧ s.afterStep.fault = some f)

/-- R330, R140 (decisions D1, D26): a fetch outside the bus faults with the address it read: the opcode's,
else the first operand byte's, else the second's. -/
def Obligations.FetchOutsideBusFaults : Prop :=
  ∀ s : State, s.fault = none → s.host = [] → s.remaining = 0 →
    (s.inBus s.pc = false → step s = .fault (.addressingFault s.pc)) ∧
    (s.inBus s.pc = true → 1 ≤ (descriptor (s.byteAt s.pc)).mode.operandBytes →
      s.inBus (s.pc + 1) = false → step s = .fault (.addressingFault (s.pc + 1))) ∧
    (s.inBus s.pc = true → (descriptor (s.byteAt s.pc)).mode.operandBytes = 2 →
      s.inBus (s.pc + 1) = true → s.inBus (s.pc + 2) = false →
      step s = .fault (.addressingFault (s.pc + 2)))

/-- R330, R51, R52, R57 to R60, R110 to R112: where a pointer byte is outside the bus the instruction faults
with the first such address; else where the operand byte or the byte stored to is outside it, with that
address; and an instruction that pushes or pulls faults with the first of its stack and vector accesses
that is outside it. Decisions D1, D3, D4, D5, D26; the order of IND's two pointer reads is assumption 13. -/
def Obligations.AccessOutsideBusFaultsWithItsAddress : Prop :=
  ∀ s : State,
    (∀ i : Instr, i.wellFormed = true →
      (∀ addr, s.firstOutside (pointerReads i.operand s) = some addr →
        exec i s = .fault (.addressingFault addr)) ∧
      (pointersInBus i.operand s = true → s.inBus (effAddr i.operand s) = false →
        i.operand.mode ∉ ([.imp, .imm, .rel] : List Mode) → i.mnemonic ∉ ([.jmp, .jsr] : List Mnemonic) →
        exec i s = .fault (.addressingFault (effAddr i.operand s)))) ∧
    ∀ (target addr : Addr) (i : Instr) (accesses : List Addr),
      (i, accesses) ∈ ([
        (.pha, [stackAddr s.sp]),
        (.php, [stackAddr s.sp]),
        (.pla, [stackAddr (s.sp + 1)]),
        (.plp, [stackAddr (s.sp + 1)]),
        (.jsr target, [stackAddr s.sp, stackAddr (s.sp - 1)]),
        (.rts, [stackAddr (s.sp + 1), stackAddr (s.sp + 2)]),
        (.rti, [stackAddr (s.sp + 1), stackAddr (s.sp + 2), stackAddr (s.sp + 3)]),
        (.brk, [stackAddr s.sp, stackAddr (s.sp - 1), stackAddr (s.sp - 2), 0xFFFE, 0xFFFF])] :
          List (Instr × List Addr)) →
      s.firstOutside accesses = some addr → exec i s = .fault (.addressingFault addr)

/-- R330, R331: an instruction faults only by an access at an address the bus does not have, or as an ADC
or SBC with D = 1 while DECIMAL_MODE is unmodelled. -/
def Obligations.InstructionsFaultOnlyAsTheSpecNames : Prop :=
  ∀ (i : Instr) (s : State) (f : Fault), exec i s = .fault f →
    (∃ addr, s.inBus addr = false ∧ f = .addressingFault addr) ∨
    (∃ c, i.opcode = some c ∧ f = .decimalUnmodelled c ∧ s.p.d = true ∧
      s.cfg.decimalMode = .unmodelled ∧ (i.mnemonic = .adc ∨ i.mnemonic = .sbc))

/-- R151, R330, R331: on a full bus, with D = 0 or a DECIMAL_MODE that runs, no pulse of an unmarked core
stops: every opcode byte, the illegal ones included, continues. The pulse is that of a host with no other
call listed; a listed `clock()` is the same pulse (IdleStepExecutesTheDecodedInstruction). -/
def Obligations.EveryPulseOnAFullBusContinues : Prop :=
  ∀ s : State, s.fault = none → s.host = [] → s.cfg.memSize = 65536 →
    (s.p.d = false ∨ s.cfg.decimalMode ≠ .unmodelled) → SafeStep s

/-- A term that the opcode map does not hold is refused by name, and no other is (R87: "A mnemonic has no
encoding in a mode whose cell is empty"; R88). The refusal is the model's, assumption 10. -/
def Obligations.ExactlyTermsWithoutEncodingAreRefused : Prop :=
  ∀ (i : Instr) (s : State),
    (i.wellFormed = false → exec i s = .refused .noEncoding) ∧
    (∀ r, exec i s = .refused r → i.wellFormed = false)

/-! ## The bus, the stack and the status byte -/

/-- R51, R52: a read answers the bus byte; a write changes exactly that byte and no register; both fault
with the address where the bus has none. That the list stays in its canonical form is of the model's own
representation of the bus, assumption 1. -/
def Obligations.BusReadsAndWritesOneByte : Prop :=
  ∀ (s : State) (addr : Addr) (v : Byte),
    (addr.toNat < s.cfg.memSize →
      memRead s addr = .ok (s.mem.read addr.toNat) ∧
      ∃ t, memWrite s addr v = .ok t ∧ t.mem.read addr.toNat = v ∧
        (∀ k, k ≠ addr.toNat → t.mem.read k = s.mem.read k) ∧ t = s.setMem t.mem ∧
        (s.mem.wf = true → t.mem.wf = true)) ∧
    (s.cfg.memSize ≤ addr.toNat →
      memRead s addr = .error (.addressingFault addr) ∧
      memWrite s addr v = .error (.addressingFault addr))

/-- The host's write of a bus byte between calls (R150, R67): that byte and the host's list change, nothing
else; a byte outside the bus is refused, which is the model's choice, assumption 8. -/
def Obligations.HostWriteStoresOneBusByte : Prop :=
  ∀ (s : State) (addr : Addr) (v : Byte) (hs : List HostAction), s.fault = none →
    s.host = .writeBus addr v :: hs →
    (s.inBus addr = true → ∃ t, step s = .next t ∧ t = (s.setHost hs).setMem t.mem ∧
      ∀ k, t.mem.read k = if k = addr.toNat then v else s.mem.read k) ∧
    (s.inBus addr = false → step s = .refused .hostWriteOutsideBus)

/-- R61: on a bus that has the stack page, for any N <= 256 pushes followed by N pulls, the pulls return the
pushed bytes in reverse order and S is as it was; every byte outside the page is as it was. -/
def Obligations.PullsReturnPushesInReverse : Prop :=
  ∀ (s : State) (vs : List Byte), vs.length ≤ 256 → (∀ sp, s.inBus (stackAddr sp) = true) →
    ∃ t u, pushAll s vs = .ok t ∧ pullMany t vs.length = .ok (vs.reverse, u) ∧ u.sp = s.sp ∧
      ∀ k, (k < 0x0100 ∨ 0x01FF < k) → u.mem.read k = s.mem.read k

/-- R27: the bit of each flag in the status byte, and SetP, which ignores bits 4 and 5 (decision D13). The
bit positions are decision D21. -/
def Obligations.StatusByteHoldsTheFlags : Prop :=
  (∀ p : Status, p.toByte.getLsbD 0 = p.c ∧ p.toByte.getLsbD 1 = p.z ∧ p.toByte.getLsbD 2 = p.i ∧
    p.toByte.getLsbD 3 = p.d ∧ p.toByte.getLsbD 4 = p.b ∧ p.toByte.getLsbD 5 = p.u ∧
    p.toByte.getLsbD 6 = p.v ∧ p.toByte.getLsbD 7 = p.n) ∧
  (∀ b : Byte, (Status.ofPulled b).toByte = (b &&& 0xCF) ||| 0x20)

/-- R29: SetZN of a byte writes Z and N and nothing else. -/
def Obligations.SetZNWritesZeroAndNegative : Prop :=
  ∀ (p : Status) (v : Byte), p.setZN v = { p with z := decide (v.toNat % 256 = 0), n := v.msb }

/-- R28: the Unused bit reads as 1 after every instruction, in every pushed status byte, after SetP and
after RESET. -/
def Obligations.UnusedFlagReadsOne : Prop :=
  (∀ (i : Instr) (s t : State), exec i s = .next t → t.p.u = true) ∧
  (∀ (p : Status) (break_ : Bool), (p.pushed break_).getLsbD 5 = true) ∧
  (∀ b : Byte, (Status.ofPulled b).u = true) ∧
  (∀ s t : State, resetEntry s = .ok t → t.p.u = true) ∧
  (∀ (s t : State) (vector : Addr) (break_ : Bool), enterException s vector break_ = .ok t → t.p.u = true)

/-! ## Addressing modes -/

/-- R101, R103, R106, R107, R110: the modes without a data index, as functions of the state at their start: PC past
the operand bytes, the tag, the effective address or offset, no extra cycle, and no other register, flag
or bus byte written. IND reads the high byte of its target from the start of the page when the pointer's
low byte is 0xFF. -/
def Obligations.PlainModesResolve : Prop :=
  ∀ s : State,
    resolve .imp s = .ok ((s.setMode .imp).setFetched s.a, false) ∧
    (∀ z : Byte, resolve (.zp z) s =
      .ok (((s.setMode .zp).setAddrAbs (BitVec.ofNat 16 z.toNat)).setPc (s.pc + 1), false)) ∧
    (∀ d : Byte, resolve (.rel d) s =
      .ok (((s.setMode .rel).setAddrRel
        (BitVec.ofNat 16 (if d.toNat < 128 then d.toNat else d.toNat + 0xFF00))).setPc (s.pc + 1), false)) ∧
    (∀ w : Addr, resolve (.abs w) s = .ok (((s.setMode .abs).setAddrAbs w).setPc (s.pc + 2), false)) ∧
    (∀ p p2 : Addr, p2.toNat = (if p.toNat % 256 = 0xFF then p.toNat - 0xFF else p.toNat + 1) →
      s.inBus p = true → s.inBus p2 = true →
      resolve (.ind p) s =
        .ok (((s.setMode .ind).setAddrAbs (cat (s.byteAt p2) (s.byteAt p))).setPc (s.pc + 2), false))

/-- R102, R104, R105, R108, R109, R111, R112, R113: IMM and the indexed modes. Zero-page sums wrap in page 0
(decision D16), 16-bit sums mod 65536 (decision D2), and ABX, ABY and IZY owe the extra cycle exactly
when the high byte changes. -/
def Obligations.IndexedModesResolve : Prop :=
  ∀ (s : State),
    (∀ v : Byte, resolve (.imm v) s = .ok (((s.setMode .imm).setAddrAbs s.pc).setPc (s.pc + 1), false)) ∧
    (∀ z : Byte, ∃ t, resolve (.zpx z) s = .ok (t, false) ∧ t.addrAbs.toNat = (z.toNat + s.x.toNat) % 256 ∧
      t = ((s.setMode .zpx).setAddrAbs t.addrAbs).setPc (s.pc + 1)) ∧
    (∀ z : Byte, ∃ t, resolve (.zpy z) s = .ok (t, false) ∧ t.addrAbs.toNat = (z.toNat + s.y.toNat) % 256 ∧
      t = ((s.setMode .zpy).setAddrAbs t.addrAbs).setPc (s.pc + 1)) ∧
    (∀ w : Addr, ∃ t mx, resolve (.abx w) s = .ok (t, mx) ∧
      t.addrAbs.toNat = (w.toNat + s.x.toNat) % 65536 ∧
      (mx = true ↔ t.addrAbs.toNat / 256 ≠ w.toNat / 256) ∧
      t = ((s.setMode .abx).setAddrAbs t.addrAbs).setPc (s.pc + 2)) ∧
    (∀ w : Addr, ∃ t mx, resolve (.aby w) s = .ok (t, mx) ∧
      t.addrAbs.toNat = (w.toNat + s.y.toNat) % 65536 ∧
      (mx = true ↔ t.addrAbs.toNat / 256 ≠ w.toNat / 256) ∧
      t = ((s.setMode .aby).setAddrAbs t.addrAbs).setPc (s.pc + 2)) ∧
    (∀ (z : Byte) (p p1 : Addr), p.toNat = (z.toNat + s.x.toNat) % 256 →
      p1.toNat = (z.toNat + s.x.toNat + 1) % 256 → s.inBus p = true → s.inBus p1 = true →
      resolve (.izx z) s =
        .ok (((s.setMode .izx).setAddrAbs (cat (s.byteAt p1) (s.byteAt p))).setPc (s.pc + 1), false)) ∧
    (∀ (z : Byte) (p p1 : Addr), p.toNat = z.toNat → p1.toNat = (z.toNat + 1) % 256 →
      s.inBus p = true → s.inBus p1 = true →
      ∃ t mx, resolve (.izy z) s = .ok (t, mx) ∧
        t.addrAbs.toNat = (256 * (s.byteAt p1).toNat + (s.byteAt p).toNat + s.y.toNat) % 65536 ∧
        (mx = true ↔ t.addrAbs.toNat / 256 ≠ (s.byteAt p1).toNat) ∧
        t = ((s.setMode .izy).setAddrAbs t.addrAbs).setPc (s.pc + 1))

/-! ## Loads, stores, transfers, stack and flag instructions -/

/-- R260 to R262: LDA, LDX and LDY load the operand into their register and set Z and N from it, in every
mode they have, with the page-crossing cycle. -/
def Obligations.LoadsPutTheOperandInTheirRegister : Prop :=
  EncodedAs .lda [(.imm, 0xA9, 2), (.zp, 0xA5, 3), (.zpx, 0xB5, 4), (.abs, 0xAD, 4), (.abx, 0xBD, 4),
    (.aby, 0xB9, 4), (.izx, 0xA1, 6), (.izy, 0xB1, 5)] ∧
  EncodedAs .ldx [(.imm, 0xA2, 2), (.zp, 0xA6, 3), (.zpy, 0xB6, 4), (.abs, 0xAE, 4), (.aby, 0xBE, 4)] ∧
  EncodedAs .ldy [(.imm, 0xA0, 2), (.zp, 0xA4, 3), (.zpx, 0xB4, 4), (.abs, 0xAC, 4), (.abx, 0xBC, 4)] ∧
  ∀ (o : Operand) (s : State), pointersInBus o s = true → operandInBus o s = true →
    let m := operandValue o s
    ((Instr.lda o).wellFormed = true →
      Completes (.lda o) s { s.passed (.lda o) true with a := m, p := znOf s.p m } s.bus) ∧
    ((Instr.ldx o).wellFormed = true →
      Completes (.ldx o) s { s.passed (.ldx o) true with x := m, p := znOf s.p m } s.bus) ∧
    ((Instr.ldy o).wellFormed = true →
      Completes (.ldy o) s { s.passed (.ldy o) true with y := m, p := znOf s.p m } s.bus)

/-- R263 to R265: STA, STX and STY write their register to the byte at the effective address, change no flag
and no other byte, and never cost a page-crossing cycle. -/
def Obligations.StoresWriteTheirRegister : Prop :=
  EncodedAs .sta [(.zp, 0x85, 3), (.zpx, 0x95, 4), (.abs, 0x8D, 4), (.abx, 0x9D, 5), (.aby, 0x99, 5),
    (.izx, 0x81, 6), (.izy, 0x91, 6)] ∧
  EncodedAs .stx [(.zp, 0x86, 3), (.zpy, 0x96, 4), (.abs, 0x8E, 4)] ∧
  EncodedAs .sty [(.zp, 0x84, 3), (.zpx, 0x94, 4), (.abs, 0x8C, 4)] ∧
  ∀ (o : Operand) (s : State), pointersInBus o s = true → operandInBus o s = true →
    ((Instr.sta o).wellFormed = true →
      Completes (.sta o) s (s.passed (.sta o) false) (storeAt s.bus (effAddr o s) s.a)) ∧
    ((Instr.stx o).wellFormed = true →
      Completes (.stx o) s (s.passed (.stx o) false) (storeAt s.bus (effAddr o s) s.x)) ∧
    ((Instr.sty o).wellFormed = true →
      Completes (.sty o) s (s.passed (.sty o) false) (storeAt s.bus (effAddr o s) s.y))

/-- R266 to R271: the six transfers; all but TXS set Z and N from the byte moved, TXS changes no flag. -/
def Obligations.TransfersMoveARegister : Prop :=
  EncodedWith .tax 0xAA 2 1 ∧ EncodedWith .tay 0xA8 2 1 ∧ EncodedWith .txa 0x8A 2 1 ∧
  EncodedWith .tya 0x98 2 1 ∧ EncodedWith .tsx 0xBA 2 1 ∧ EncodedWith .txs 0x9A 2 1 ∧
  ∀ s : State,
    Completes .tax s { s.passed .tax false with x := s.a, p := znOf s.p s.a } s.bus ∧
    Completes .tay s { s.passed .tay false with y := s.a, p := znOf s.p s.a } s.bus ∧
    Completes .txa s { s.passed .txa false with a := s.x, p := znOf s.p s.x } s.bus ∧
    Completes .tya s { s.passed .tya false with a := s.y, p := znOf s.p s.y } s.bus ∧
    Completes .tsx s { s.passed .tsx false with x := s.sp, p := znOf s.p s.sp } s.bus ∧
    Completes .txs s { s.passed .txs false with sp := s.x } s.bus

/-- R276 to R282: each flag instruction writes its own flag and nothing else. -/
def Obligations.FlagInstructionsWriteTheirFlag : Prop :=
  EncodedWith .clc 0x18 2 1 ∧ EncodedWith .sec 0x38 2 1 ∧ EncodedWith .cli 0x58 2 1 ∧
  EncodedWith .sei 0x78 2 1 ∧ EncodedWith .cld 0xD8 2 1 ∧ EncodedWith .sed 0xF8 2 1 ∧
  EncodedWith .clv 0xB8 2 1 ∧
  ∀ s : State,
    Completes .clc s { s.passed .clc false with p := { s.p with c := false, u := true } } s.bus ∧
    Completes .sec s { s.passed .sec false with p := { s.p with c := true, u := true } } s.bus ∧
    Completes .cli s { s.passed .cli false with p := { s.p with i := false, u := true } } s.bus ∧
    Completes .sei s { s.passed .sei false with p := { s.p with i := true, u := true } } s.bus ∧
    Completes .cld s { s.passed .cld false with p := { s.p with d := false, u := true } } s.bus ∧
    Completes .sed s { s.passed .sed false with p := { s.p with d := true, u := true } } s.bus ∧
    Completes .clv s { s.passed .clv false with p := { s.p with v := false, u := true } } s.bus

/-- R272, R274: PHA writes A at 0x0100 + S and lowers S; PLA raises S, loads A from there and sets Z, N. -/
def Obligations.PhaAndPlaMoveAOnTheStack : Prop :=
  EncodedWith .pha 0x48 3 1 ∧ EncodedWith .pla 0x68 4 1 ∧
  ∀ s : State,
    (s.inBus (stackAddr s.sp) = true →
      Completes .pha s { s.passed .pha false with sp := s.sp - 1 }
        (storeAt s.bus (stackAddr s.sp) s.a)) ∧
    (s.inBus (stackAddr (s.sp + 1)) = true →
      let m := s.byteAt (stackAddr (s.sp + 1))
      Completes .pla s { s.passed .pla false with a := m, sp := s.sp + 1, p := znOf s.p m } s.bus)

/-- R273, R275: PHP pushes the status with bits 4 and 5 set and changes no flag; PLP takes C, Z, I, D, V, N
from the pulled byte, leaves B clear and U set. Bits 4 and 5 are the spec's decision D13. -/
def Obligations.PhpAndPlpMoveTheStatusOnTheStack : Prop :=
  EncodedWith .php 0x08 3 1 ∧ EncodedWith .plp 0x28 4 1 ∧
  ∀ s : State,
    (s.inBus (stackAddr s.sp) = true →
      Completes .php s { s.passed .php false with sp := s.sp - 1 }
        (storeAt s.bus (stackAddr s.sp) (s.p.toByte ||| 0x30))) ∧
    (s.inBus (stackAddr (s.sp + 1)) = true →
      Completes .plp s
        { s.passed .plp false with
          sp := s.sp + 1
          p := Status.ofPulled (s.byteAt (stackAddr (s.sp + 1))) } s.bus)

/-! ## Read-modify-write -/

/-- R160 to R164: the shifts and rotates on A or on the byte at the effective address: the result, written
back where the operand came from, the carry, Z and N; no page-crossing cycle. -/
def Obligations.ShiftsAndRotatesWriteBack : Prop :=
  EncodedAs .asl [(.imp, 0x0A, 2), (.zp, 0x06, 5), (.zpx, 0x16, 6), (.abs, 0x0E, 6), (.abx, 0x1E, 7)] ∧
  EncodedAs .lsr [(.imp, 0x4A, 2), (.zp, 0x46, 5), (.zpx, 0x56, 6), (.abs, 0x4E, 6), (.abx, 0x5E, 7)] ∧
  EncodedAs .rol [(.imp, 0x2A, 2), (.zp, 0x26, 5), (.zpx, 0x36, 6), (.abs, 0x2E, 6), (.abx, 0x3E, 7)] ∧
  EncodedAs .ror [(.imp, 0x6A, 2), (.zp, 0x66, 5), (.zpx, 0x76, 6), (.abs, 0x6E, 6), (.abx, 0x7E, 7)] ∧
  ∀ (o : Operand) (s : State), operandInBus o s = true →
    let m := (operandValue o s).toNat
    let c := s.p.c.toNat
    let leaves (i : Instr) (r : Byte) (carry : Bool) : Prop :=
      i.wellFormed = true →
        Completes i s
          { s.passed i false with
            a := if o.mode = .imp then r else s.a
            p := znOf { s.p with c := carry } r }
          (if o.mode = .imp then s.bus else storeAt s.bus (effAddr o s) r)
    leaves (.asl o) (BitVec.ofNat 8 (m * 2 % 256)) (decide (128 ≤ m)) ∧
    leaves (.lsr o) (BitVec.ofNat 8 (m / 2)) (decide (m % 2 = 1)) ∧
    leaves (.rol o) (BitVec.ofNat 8 ((m * 2 + c) % 256)) (decide (128 ≤ m)) ∧
    leaves (.ror o) (BitVec.ofNat 8 (c * 128 + m / 2)) (decide (m % 2 = 1))

/-- R165, R166: INC and DEC change the byte at the effective address by one mod 256, and Z and N; the carry
and every register but PC are as they were; no page-crossing cycle. -/
def Obligations.IncAndDecChangeMemoryByOne : Prop :=
  EncodedAs .inc [(.zp, 0xE6, 5), (.zpx, 0xF6, 6), (.abs, 0xEE, 6), (.abx, 0xFE, 7)] ∧
  EncodedAs .dec [(.zp, 0xC6, 5), (.zpx, 0xD6, 6), (.abs, 0xCE, 6), (.abx, 0xDE, 7)] ∧
  ∀ (o : Operand) (s : State), operandInBus o s = true →
    let m := (s.byteAt (effAddr o s)).toNat
    let up : Byte := BitVec.ofNat 8 ((m + 1) % 256)
    let down : Byte := BitVec.ofNat 8 ((m + 255) % 256)
    ((Instr.inc o).wellFormed = true →
      Completes (.inc o) s { s.passed (.inc o) false with p := znOf s.p up }
        (storeAt s.bus (effAddr o s) up)) ∧
    ((Instr.dec o).wellFormed = true →
      Completes (.dec o) s { s.passed (.dec o) false with p := znOf s.p down }
        (storeAt s.bus (effAddr o s) down))

/-- R167 to R170: INX, INY, DEX and DEY change their register by one mod 256, and Z and N. -/
def Obligations.IndexIncrementsAndDecrements : Prop :=
  EncodedWith .inx 0xE8 2 1 ∧ EncodedWith .iny 0xC8 2 1 ∧ EncodedWith .dex 0xCA 2 1 ∧
  EncodedWith .dey 0x88 2 1 ∧
  ∀ s : State,
    let up (r : Byte) : Byte := BitVec.ofNat 8 ((r.toNat + 1) % 256)
    let down (r : Byte) : Byte := BitVec.ofNat 8 ((r.toNat + 255) % 256)
    Completes .inx s { s.passed .inx false with x := up s.x, p := znOf s.p (up s.x) } s.bus ∧
    Completes .iny s { s.passed .iny false with y := up s.y, p := znOf s.p (up s.y) } s.bus ∧
    Completes .dex s { s.passed .dex false with x := down s.x, p := znOf s.p (down s.x) } s.bus ∧
    Completes .dey s { s.passed .dey false with y := down s.y, p := znOf s.p (down s.y) } s.bus

/-! ## Arithmetic and logic -/

/-- R194 to R196: AND, ORA and EOR combine A with the operand bit by bit and set Z and N. -/
def Obligations.LogicCombinesAWithTheOperand : Prop :=
  EncodedAs .and [(.imm, 0x29, 2), (.zp, 0x25, 3), (.zpx, 0x35, 4), (.abs, 0x2D, 4), (.abx, 0x3D, 4),
    (.aby, 0x39, 4), (.izx, 0x21, 6), (.izy, 0x31, 5)] ∧
  EncodedAs .ora [(.imm, 0x09, 2), (.zp, 0x05, 3), (.zpx, 0x15, 4), (.abs, 0x0D, 4), (.abx, 0x1D, 4),
    (.aby, 0x19, 4), (.izx, 0x01, 6), (.izy, 0x11, 5)] ∧
  EncodedAs .eor [(.imm, 0x49, 2), (.zp, 0x45, 3), (.zpx, 0x55, 4), (.abs, 0x4D, 4), (.abx, 0x5D, 4),
    (.aby, 0x59, 4), (.izx, 0x41, 6), (.izy, 0x51, 5)] ∧
  ∀ (o : Operand) (s : State), pointersInBus o s = true → operandInBus o s = true →
    let m := operandValue o s
    let leaves (i : Instr) (r : Byte) : Prop :=
      i.wellFormed = true → Completes i s { s.passed i true with a := r, p := znOf s.p r } s.bus
    leaves (.and o) (s.a &&& m) ∧ leaves (.ora o) (s.a ||| m) ∧ leaves (.eor o) (s.a ^^^ m)

/-- R197 to R200: CMP, CPX and CPY, in every mode they have, set C when the register is not below the operand, Z when they are equal
and N from bit 7 of the difference; no register and no byte is written. The flag rule is decision D20. -/
def Obligations.ComparesSetCarryZeroNegative : Prop :=
  EncodedAs .cmp [(.imm, 0xC9, 2), (.zp, 0xC5, 3), (.zpx, 0xD5, 4), (.abs, 0xCD, 4), (.abx, 0xDD, 4),
    (.aby, 0xD9, 4), (.izx, 0xC1, 6), (.izy, 0xD1, 5)] ∧
  EncodedAs .cpx [(.imm, 0xE0, 2), (.zp, 0xE4, 3), (.abs, 0xEC, 4)] ∧
  EncodedAs .cpy [(.imm, 0xC0, 2), (.zp, 0xC4, 3), (.abs, 0xCC, 4)] ∧
  ∀ (o : Operand) (s : State), pointersInBus o s = true → operandInBus o s = true →
    let m := operandValue o s
    let leaves (i : Instr) (ox : Bool) (r : Byte) : Prop :=
      i.wellFormed = true →
        Completes i s
          { s.passed i ox with
            p :=
              { s.p with
                c := decide (m.toNat ≤ r.toNat)
                z := decide (r = m)
                n := decide (128 ≤ (r.toNat + 256 - m.toNat) % 256)
                u := true } } s.bus
    leaves (.cmp o) true s.a ∧ leaves (.cpx o) false s.x ∧ leaves (.cpy o) false s.y

/-- R201: BIT sets Z from A AND m and copies bits 6 and 7 of m to V and N; A is as it was. -/
def Obligations.BitTestsTheOperandAgainstA : Prop :=
  EncodedAs .bit [(.zp, 0x24, 3), (.abs, 0x2C, 4)] ∧
  ∀ (o : Operand) (s : State), (Instr.bit o).wellFormed = true → operandInBus o s = true →
    let m := s.byteAt (effAddr o s)
    Completes (.bit o) s
      { s.passed (.bit o) false with
        p := { s.p with z := decide (s.a &&& m = 0), v := m.getLsbD 6, n := m.getLsbD 7, u := true } } s.bus

/-- R190, R192, R193, R204: with D = 0, or DECIMAL_MODE binary, ADC leaves the sum A + m + C and SBC the sum A + (255 - m) + C,
mod 256, with C set when the sum exceeds 0xFF, V when the two's-complement sum leaves -128..127, and Z, N
of the result, in every mode they have. That `binary` ignores D is decision D17; V by the range of the sum
is R204's derivation from R190's signs. -/
def Obligations.AdcAndSbcAddInBinary : Prop :=
  EncodedAs .adc [(.imm, 0x69, 2), (.zp, 0x65, 3), (.zpx, 0x75, 4), (.abs, 0x6D, 4), (.abx, 0x7D, 4),
    (.aby, 0x79, 4), (.izx, 0x61, 6), (.izy, 0x71, 5)] ∧
  EncodedAs .sbc [(.imm, 0xE9, 2), (.zp, 0xE5, 3), (.zpx, 0xF5, 4), (.abs, 0xED, 4), (.abx, 0xFD, 4),
    (.aby, 0xF9, 4), (.izx, 0xE1, 6), (.izy, 0xF1, 5)] ∧
  ∀ (o : Operand) (s : State), pointersInBus o s = true → operandInBus o s = true →
    (s.p.d = false ∨ s.cfg.decimalMode = .binary) →
    let leaves (i : Instr) (m : Byte) : Prop :=
      i.wellFormed = true →
        let sum := s.a.toNat + m.toNat + s.p.c.toNat
        let signed : Int := s.a.toInt + m.toInt + s.p.c.toNat
        let r : Byte := BitVec.ofNat 8 (sum % 256)
        Completes i s
          { s.passed i true with
            a := r
            p := znOf { s.p with c := decide (sum > 0xFF), v := decide (signed < -128 ∨ 127 < signed) } r }
          s.bus
    leaves (.adc o) (operandValue o s) ∧
    leaves (.sbc o) (BitVec.ofNat 8 (255 - (operandValue o s).toNat))

/-- R202, R203: with D = 1 and DECIMAL_MODE nmos, ADC and SBC leave A and the flags of the NMOS decimal rules,
for every pair of bytes, valid BCD or not. -/
def Obligations.AdcAndSbcFollowTheNmosDecimalRules : Prop :=
  ∀ (o : Operand) (s : State), pointersInBus o s = true → operandInBus o s = true →
    s.p.d = true → s.cfg.decimalMode = .nmos →
    let a := s.a.toNat
    let m := (operandValue o s).toNat
    let c := s.p.c.toNat
    ((Instr.adc o).wellFormed = true →
      let al0 := a % 16 + m % 16 + c
      let al := if al0 ≥ 10 then (al0 + 6) % 16 + 16 else al0
      let t0 := (a - a % 16) + (m - m % 16) + al
      let sx (h : Nat) : Int := if h < 128 then h else (h : Int) - 256
      let ts : Int := sx (a - a % 16) + sx (m - m % 16) + al
      let t := if t0 ≥ 0xA0 then t0 + 0x60 else t0
      Completes (.adc o) s
        { s.passed (.adc o) true with
          a := BitVec.ofNat 8 (t % 256)
          p :=
            { s.p with
              z := decide ((a + m + c) % 256 = 0)
              n := decide (t0 / 128 % 2 = 1)
              v := decide (ts < -128 ∨ ts > 127)
              c := decide (t ≥ 0x100)
              u := true } } s.bus) ∧
    ((Instr.sbc o).wellFormed = true →
      let al0 : Int := (a % 16 : Nat) - (m % 16 : Nat) + c - 1
      let al : Int := if al0 < 0 then (al0 - 6) % 16 - 16 else al0
      let t0 : Int := (a - a % 16 : Nat) - (m - m % 16 : Nat) + al
      let t : Int := if t0 < 0 then t0 - 0x60 else t0
      let sum := a + (255 - m) + c
      let signed : Int := s.a.toInt - (operandValue o s).toInt - 1 + c
      Completes (.sbc o) s
        { s.passed (.sbc o) true with
          a := BitVec.ofInt 8 (t % 256)
          p :=
            { s.p with
              z := decide (sum % 256 = 0)
              n := decide (128 ≤ sum % 256)
              v := decide (signed < -128 ∨ 127 < signed)
              c := decide (sum > 0xFF)
              u := true } } s.bus)

/-- A consequence of R202 and R203: with DECIMAL_MODE nmos and valid BCD operands, ADC is decimal addition
with carry and SBC decimal subtraction with borrow, digits and carry alike. -/
def Obligations.NmosDecimalIsBcdArithmetic : Prop :=
  ∀ (p : Status) (a m : Byte),
    a.toNat % 16 ≤ 9 → a.toNat / 16 ≤ 9 → m.toNat % 16 ≤ 9 → m.toNat / 16 ≤ 9 →
    let bcd (v : Byte) : Nat := v.toNat / 16 * 10 + v.toNat % 16
    let add := addNmos p a m
    let sub := subNmos p a m
    (bcd add.value + 100 * add.status.c.toNat = bcd a + bcd m + p.c.toNat ∧
      add.value.toNat % 16 ≤ 9 ∧ add.value.toNat / 16 ≤ 9) ∧
    (bcd sub.value + bcd m + 1 = bcd a + p.c.toNat + 100 * (1 - sub.status.c.toNat) ∧
      sub.value.toNat % 16 ≤ 9 ∧ sub.value.toNat / 16 ≤ 9)

/-- R191, R331 (decision D17): with D = 1 and DECIMAL_MODE unmodelled, ADC and SBC stop after the operand read
with DecimalUnmodelled of their opcode; an operand read that faults reports its own fault. -/
def Obligations.AdcAndSbcStopWhenDecimalIsUnmodelled : Prop :=
  ∀ (i : Instr) (o : Operand) (s : State) (c : Byte), (i = .adc o ∨ i = .sbc o) → i.opcode = some c →
    pointersInBus o s = true → s.p.d = true → s.cfg.decimalMode = .unmodelled →
    (operandInBus o s = true → exec i s = .fault (.decimalUnmodelled c)) ∧
    (operandInBus o s = false → exec i s = .fault (.addressingFault (effAddr o s)))

/-- R205: an executing pulse of ADC and then one of SBC with the same operand value, both binary: from any
state with the accumulator the ADC left, the SBC leaves A + c0 + c1 - 1 mod 256, with c0 the carry before
the ADC and c1 the carry the SBC consumes (the ADC's own where no instruction between writes it); so A is
restored exactly when c0 + c1 = 1. `binary` is decision D17. -/
def Obligations.AdcThenSbcLaw : Prop :=
  ∀ (o o' : Operand) (s : State), (Instr.adc o).wellFormed = true → (Instr.sbc o').wellFormed = true →
    pointersInBus o s = true → operandInBus o s = true → s.addsInBinary →
    ∃ t, exec (.adc o) s = .next t ∧ t.addsInBinary ∧
      ∀ u : State, u.a = t.a → u.addsInBinary → pointersInBus o' u = true → operandInBus o' u = true →
        operandValue o' u = operandValue o s →
        ∃ v, exec (.sbc o') u = .next v ∧
          v.a.toNat = (s.a.toNat + s.p.c.toNat + u.p.c.toNat + 255) % 256 ∧
          (v.a = s.a ↔ s.p.c.toNat + u.p.c.toNat = 1)

/-! ## Control transfer -/

/-- R220: JMP loads PC with its operand, or, indirect, with the word at its pointer whose high byte is read
within the pointer's page; no flag and no byte changes. -/
def Obligations.JmpLoadsPc : Prop :=
  EncodedAs .jmp [(.abs, 0x4C, 3), (.ind, 0x6C, 5)] ∧
  ∀ (s : State) (w : Addr),
    Completes (.jmp (.abs w)) s { s.passed (.jmp (.abs w)) false with pc := w } s.bus ∧
    (∀ w2 : Addr, w2.toNat = (if w.toNat % 256 = 0xFF then w.toNat - 0xFF else w.toNat + 1) →
      s.inBus w = true → s.inBus w2 = true →
      Completes (.jmp (.ind w)) s
        { s.passed (.jmp (.ind w)) false with pc := cat (s.byteAt w2) (s.byteAt w) } s.bus)

/-- R221, R222: JSR pushes the address of its own last byte, high byte first, and jumps; RTS pulls a word and
continues one past it. The convention is the spec's decision D14. -/
def Obligations.JsrAndRtsCallAndReturn : Prop :=
  EncodedWith .rts 0x60 6 1 ∧
  ∀ (s : State) (w : Addr), EncodedWith (.jsr w) 0x20 6 3 ∧
    (s.inBus (stackAddr s.sp) = true → s.inBus (stackAddr (s.sp - 1)) = true →
      Completes (.jsr w) s { s.passed (.jsr w) false with pc := w, sp := s.sp - 2 }
        (storeAt (storeAt s.bus (stackAddr s.sp) (hi (s.pc + 2))) (stackAddr (s.sp - 1)) (lo (s.pc + 2)))) ∧
    (s.inBus (stackAddr (s.sp + 1)) = true → s.inBus (stackAddr (s.sp + 2)) = true →
      Completes .rts s
        { s.passed .rts false with
          sp := s.sp + 2
          pc := cat (s.byteAt (stackAddr (s.sp + 2))) (s.byteAt (stackAddr (s.sp + 1))) + 1 } s.bus)

/-- R224, R318: BRK pushes the address two past itself and the status with bits 4 and 5 set, sets I, leaves B
clear and loads PC from 0xFFFE, whatever I is, in 7 cycles. Decisions D4, D5, D11, D12, D13. -/
def Obligations.BrkEntersThroughTheIrqVector : Prop :=
  EncodedWith .brk 0x00 7 1 ∧
  ∀ s : State, entryInBus s 0xFFFE = true →
    Completes .brk s
      { s.passed .brk false with
        sp := s.sp - 3
        pc := cat (s.byteAt 0xFFFF) (s.byteAt 0xFFFE)
        p := { s.p with i := true, b := false, u := true } }
      (storeAt (storeAt (storeAt s.bus (stackAddr s.sp) (hi (s.pc + 2)))
        (stackAddr (s.sp - 1)) (lo (s.pc + 2))) (stackAddr (s.sp - 2)) (s.p.toByte ||| 0x30))

/-- R223: RTI pulls the status, of which bits 4 and 5 are ignored, and then PC, with no one added. The pull
order is decision D4, the two bits decision D13. -/
def Obligations.RtiRestoresStatusAndPc : Prop :=
  EncodedWith .rti 0x40 6 1 ∧
  ∀ s : State, s.inBus (stackAddr (s.sp + 1)) = true → s.inBus (stackAddr (s.sp + 2)) = true →
    s.inBus (stackAddr (s.sp + 3)) = true →
    Completes .rti s
      { s.passed .rti false with
        sp := s.sp + 3
        p := Status.ofPulled (s.byteAt (stackAddr (s.sp + 1)))
        pc := cat (s.byteAt (stackAddr (s.sp + 3))) (s.byteAt (stackAddr (s.sp + 2))) } s.bus

/-- R225 to R233: each branch, taken on its own flag value, adds its signed displacement to the address after
it; it costs 2 cycles not taken, 3 taken to the same page, 4 taken to another, and changes nothing else.
The 2 / 3 / 4 timing is decision D19 (conflict C3); the page compared is that of PC after the branch, as
R225 says, where R232's corner case at 0xFFFE says otherwise: the model's choice, assumption 14. -/
def Obligations.BranchesJumpOnTheirFlag : Prop :=
  ∀ (s : State) (d : Byte),
    EncodedWith (.bpl d) 0x10 2 2 ∧ EncodedWith (.bmi d) 0x30 2 2 ∧ EncodedWith (.bvc d) 0x50 2 2 ∧
    EncodedWith (.bvs d) 0x70 2 2 ∧ EncodedWith (.bcc d) 0x90 2 2 ∧ EncodedWith (.bcs d) 0xB0 2 2 ∧
    EncodedWith (.bne d) 0xD0 2 2 ∧ EncodedWith (.beq d) 0xF0 2 2 ∧
    let after := s.pc + 2
    let target : Addr := BitVec.ofInt 16 (after.toNat + d.toInt)
    let extra := if target.toNat / 256 = after.toNat / 256 then 1 else 2
    let leaves (i : Instr) (taken : Bool) : Prop :=
      Completes i s
        { s.passed i false with
          pc := if taken then target else after
          remaining := (if taken then 2 + extra else 2) - 1 } s.bus
    leaves (.bpl d) (!s.p.n) ∧ leaves (.bmi d) s.p.n ∧ leaves (.bvc d) (!s.p.v) ∧ leaves (.bvs d) s.p.v ∧
    leaves (.bcc d) (!s.p.c) ∧ leaves (.bcs d) s.p.c ∧ leaves (.bne d) (!s.p.z) ∧ leaves (.beq d) s.p.z

/-- R300: NOP is one byte and 2 cycles and changes nothing else. -/
def Obligations.NopOnlyPasses : Prop :=
  EncodedWith .nop 0xEA 2 1 ∧ ∀ s : State, Completes .nop s (s.passed .nop false) s.bus

/-- R301, R302, R88: the illegal bytes are the 105 of R302's table, each a one-byte no-op of its own cycle
count there, 2 to 8, that changes no register but PC, no flag and no bus byte. The length, the mode and the
counts are the spec's decision D18. -/
def Obligations.IllegalOpcodesOnlyPass : Prop :=
  illegalCounts.length = 105 ∧ (illegalCounts.map Prod.fst).Nodup ∧
  illegalOpcodes = illegalCounts.map Prod.fst ∧
  (∀ c, (Instr.xxx c).wellFormed = true → ∃ cycles, (c, cycles) ∈ illegalCounts) ∧
  ∀ (c : Byte) (cycles : Nat) (s : State), (c, cycles) ∈ illegalCounts →
    (Instr.xxx c).wellFormed = true ∧ EncodedWith (.xxx c) c cycles 1 ∧ 2 ≤ cycles ∧ cycles ≤ 8 ∧
    Completes (.xxx c) s { s.passed (.xxx c) false with remaining := cycles - 1 } s.bus

/-! ## Interrupts -/

/-- R312, R313, R318: `nmi()` on an Idle core, whatever I is, pushes PC and the status with bit 4 clear and bit 5
set, sets I and loads PC from 0xFFFA; it owes NMI_CYCLES. Where the bus lacks a byte of these it stops with
AddressingFault of the first one (R330). Decisions D3, D4, D5, D8, D11, D26, D28. -/
def Obligations.NmiEntersThroughItsVector : Prop :=
  ∀ (s : State) (hs : List HostAction), s.fault = none → s.remaining = 0 → s.host = .nmi :: hs →
    (entryInBus s 0xFFFA = true →
      ∃ t, step s = .next t ∧
        t.boundary =
          { s.boundary with
            sp := s.sp - 3
            pc := cat (s.byteAt 0xFFFB) (s.byteAt 0xFFFA)
            p := { s.p with i := true, u := true }
            remaining := s.cfg.nmiCycles
            host := hs } ∧
        ∀ k, t.mem.read k =
          storeAt (storeAt (storeAt s.bus (stackAddr s.sp) (hi s.pc)) (stackAddr (s.sp - 1)) (lo s.pc))
            (stackAddr (s.sp - 2)) ((s.p.toByte &&& 0xEF) ||| 0x20) k) ∧
    ∀ addr, s.firstOutside (entryAccesses s 0xFFFA) = some addr → step s = .fault (.addressingFault addr)

/-- R312, R314, R318: `irq()` on an Idle core with I = 0 enters as NMI does, through 0xFFFE with IRQ_CYCLES; with
I = 1 it is ignored and leaves no trace. A taken `irq()` stops with AddressingFault of the first byte of its
accesses that the bus lacks (R330). Decisions D3, D4, D5, D8, D10, D11, D26, D28. -/
def Obligations.IrqEntersOnlyWhenEnabled : Prop :=
  ∀ (s : State) (hs : List HostAction), s.fault = none → s.remaining = 0 → s.host = .irq :: hs →
    (s.p.i = true → step s = .next (s.setHost hs)) ∧
    (s.p.i = false → entryInBus s 0xFFFE = true →
      ∃ t, step s = .next t ∧
        t.boundary =
          { s.boundary with
            sp := s.sp - 3
            pc := cat (s.byteAt 0xFFFF) (s.byteAt 0xFFFE)
            p := { s.p with i := true, u := true }
            remaining := s.cfg.irqCycles
            host := hs } ∧
        ∀ k, t.mem.read k =
          storeAt (storeAt (storeAt s.bus (stackAddr s.sp) (hi s.pc)) (stackAddr (s.sp - 1)) (lo s.pc))
            (stackAddr (s.sp - 2)) ((s.p.toByte &&& 0xEF) ||| 0x20) k) ∧
    (s.p.i = false → ∀ addr, s.firstOutside (entryAccesses s 0xFFFE) = some addr →
      step s = .fault (.addressingFault addr))

/-- R150, R310 (decision D9): `nmi()` and `irq()` on a Busy core have no move; `reset()` and `clock()` are
never refused. -/
def Obligations.InterruptCallsWhileBusyHaveNoMove : Prop :=
  ∀ (s : State) (hs : List HostAction), s.fault = none →
    (s.remaining ≠ 0 → (s.host = .nmi :: hs ∨ s.host = .irq :: hs) →
      step s = .refused .hostCallWhileBusy) ∧
    ((s.host = [] ∨ s.host = .clock :: hs ∨ s.host = .reset :: hs) → ∀ r, step s ≠ .refused r)

/-- R315: RTI undoes an NMI or a BRK entry: from any state that has S and the stack bytes the entry left, RTI
completes with the status the entry found (B clear, U set), the PC it pushed and the S it found. -/
def Obligations.RtiUndoesAnEntry : Prop :=
  ∀ (s t u : State) (vector : Addr) (break_ : Bool), enterException s vector break_ = .ok t →
    u.sp = t.sp → u.cfg = t.cfg → (∀ sp, u.byteAt (stackAddr sp) = t.byteAt (stackAddr sp)) →
    ∃ v, exec .rti u = .next v ∧ v.p = { s.p with b := false, u := true } ∧ v.pc = s.pc ∧ v.sp = s.sp ∧
      v.a = u.a ∧ v.x = u.x ∧ v.y = u.y ∧ ∀ k, v.mem.read k = u.mem.read k

/-! ## Whole-machine rules -/

/-- R46, R5: no instruction touches the parameters, the host's calls or the fault mark. -/
def Obligations.InstructionsLeaveHostAndParameters : Prop :=
  ∀ (i : Instr) (s t : State), exec i s = .next t →
    t.cfg = s.cfg ∧ t.host = s.host ∧ t.fault = s.fault

/-- R62: only stores, read-modify-writes on memory and pushes can change a bus byte. -/
def Obligations.OnlyStoringInstructionsWriteTheBus : Prop :=
  ∀ (i : Instr) (s t : State), exec i s = .next t → storesToBus i = false → t.mem = s.mem

/-- R21 to R24: the instructions that can change A, X, Y and S. -/
def Obligations.RegistersAreWrittenOnlyByTheirWriters : Prop :=
  ∀ (i : Instr) (s t : State), exec i s = .next t →
    (t.a ≠ s.a → i.mnemonic ∈ ([.lda, .txa, .tya, .pla, .adc, .sbc, .and, .ora, .eor] : List Mnemonic) ∨
      (i.operand = .imp ∧ i.mnemonic ∈ ([.asl, .lsr, .rol, .ror] : List Mnemonic))) ∧
    (t.x ≠ s.x → i.mnemonic ∈ ([.ldx, .tax, .tsx, .inx, .dex] : List Mnemonic)) ∧
    (t.y ≠ s.y → i.mnemonic ∈ ([.ldy, .tay, .iny, .dey] : List Mnemonic)) ∧
    (t.sp ≠ s.sp →
      i.mnemonic ∈ ([.txs, .pha, .php, .pla, .plp, .jsr, .rts, .rti, .brk] : List Mnemonic))

/-- R30 to R36: the instructions that can change each flag; B stays clear. -/
def Obligations.FlagsAreWrittenOnlyByTheirWriters : Prop :=
  ∀ (i : Instr) (s t : State), exec i s = .next t →
    (t.p.c ≠ s.p.c → i.mnemonic ∈ ([.adc, .sbc, .cmp, .cpx, .cpy, .asl, .lsr, .rol, .ror, .clc, .sec,
      .plp, .rti] : List Mnemonic)) ∧
    ((t.p.z ≠ s.p.z ∨ t.p.n ≠ s.p.n) →
      i.mnemonic ∈ ([.adc, .sbc, .and, .ora, .eor, .cmp, .cpx, .cpy, .asl, .lsr, .rol, .ror, .inc, .dec,
        .inx, .iny, .dex, .dey, .lda, .ldx, .ldy, .tax, .tay, .txa, .tya, .tsx, .pla, .bit, .plp,
        .rti] : List Mnemonic)) ∧
    (t.p.i ≠ s.p.i → i.mnemonic ∈ ([.cli, .sei, .plp, .rti, .brk] : List Mnemonic)) ∧
    (t.p.d ≠ s.p.d → i.mnemonic ∈ ([.cld, .sed, .plp, .rti] : List Mnemonic)) ∧
    (t.p.v ≠ s.p.v → i.mnemonic ∈ ([.adc, .sbc, .bit, .clv, .plp, .rti] : List Mnemonic)) ∧
    (s.p.b = false → t.p.b = false)

/-- R33: D is read by ADC, SBC and the status pushes only: every other instruction, run from two states that
differ in D alone, completes in both or in neither, with the same boundary view but for D and the same
bus. -/
def Obligations.DecimalFlagIsReadOnlyByItsReaders : Prop :=
  ∀ (i : Instr) (s t : State) (d : Bool),
    i.mnemonic ∉ ([.adc, .sbc, .php, .brk] : List Mnemonic) → exec i s = .next t →
    ∃ t', exec i (s.setP { s.p with d := d }) = .next t' ∧
      t'.boundary = { t.boundary with p := { t.p with d := t'.p.d } } ∧
      (t'.p.d = d ∨ t'.p.d = t.p.d) ∧ ∀ k, t'.mem.read k = t.mem.read k
end

