-- ==== Sys2Proof/Laws/State.lean ====
section
/-! SUPPORT. What each setter of State writes and leaves: one lemma per field per setter. -/

namespace Sys2Proof.Machine

@[simp] theorem State.setA_a (s : State) (v : Byte) : (s.setA v).a = v := rfl
@[simp] theorem State.setA_x (s : State) (v : Byte) : (s.setA v).x = s.x := rfl
@[simp] theorem State.setA_y (s : State) (v : Byte) : (s.setA v).y = s.y := rfl
@[simp] theorem State.setA_sp (s : State) (v : Byte) : (s.setA v).sp = s.sp := rfl
@[simp] theorem State.setA_pc (s : State) (v : Byte) : (s.setA v).pc = s.pc := rfl
@[simp] theorem State.setA_p (s : State) (v : Byte) : (s.setA v).p = s.p := rfl
@[simp] theorem State.setA_opcode (s : State) (v : Byte) : (s.setA v).opcode = s.opcode := rfl
@[simp] theorem State.setA_fetched (s : State) (v : Byte) : (s.setA v).fetched = s.fetched := rfl
@[simp] theorem State.setA_mode (s : State) (v : Byte) : (s.setA v).mode = s.mode := rfl
@[simp] theorem State.setA_addrAbs (s : State) (v : Byte) : (s.setA v).addrAbs = s.addrAbs := rfl
@[simp] theorem State.setA_addrRel (s : State) (v : Byte) : (s.setA v).addrRel = s.addrRel := rfl
@[simp] theorem State.setA_remaining (s : State) (v : Byte) : (s.setA v).remaining = s.remaining := rfl
@[simp] theorem State.setA_fault (s : State) (v : Byte) : (s.setA v).fault = s.fault := rfl
@[simp] theorem State.setA_mem (s : State) (v : Byte) : (s.setA v).mem = s.mem := rfl
@[simp] theorem State.setA_cfg (s : State) (v : Byte) : (s.setA v).cfg = s.cfg := rfl
@[simp] theorem State.setA_host (s : State) (v : Byte) : (s.setA v).host = s.host := rfl

@[simp] theorem State.setX_a (s : State) (v : Byte) : (s.setX v).a = s.a := rfl
@[simp] theorem State.setX_x (s : State) (v : Byte) : (s.setX v).x = v := rfl
@[simp] theorem State.setX_y (s : State) (v : Byte) : (s.setX v).y = s.y := rfl
@[simp] theorem State.setX_sp (s : State) (v : Byte) : (s.setX v).sp = s.sp := rfl
@[simp] theorem State.setX_pc (s : State) (v : Byte) : (s.setX v).pc = s.pc := rfl
@[simp] theorem State.setX_p (s : State) (v : Byte) : (s.setX v).p = s.p := rfl
@[simp] theorem State.setX_opcode (s : State) (v : Byte) : (s.setX v).opcode = s.opcode := rfl
@[simp] theorem State.setX_fetched (s : State) (v : Byte) : (s.setX v).fetched = s.fetched := rfl
@[simp] theorem State.setX_mode (s : State) (v : Byte) : (s.setX v).mode = s.mode := rfl
@[simp] theorem State.setX_addrAbs (s : State) (v : Byte) : (s.setX v).addrAbs = s.addrAbs := rfl
@[simp] theorem State.setX_addrRel (s : State) (v : Byte) : (s.setX v).addrRel = s.addrRel := rfl
@[simp] theorem State.setX_remaining (s : State) (v : Byte) : (s.setX v).remaining = s.remaining := rfl
@[simp] theorem State.setX_fault (s : State) (v : Byte) : (s.setX v).fault = s.fault := rfl
@[simp] theorem State.setX_mem (s : State) (v : Byte) : (s.setX v).mem = s.mem := rfl
@[simp] theorem State.setX_cfg (s : State) (v : Byte) : (s.setX v).cfg = s.cfg := rfl
@[simp] theorem State.setX_host (s : State) (v : Byte) : (s.setX v).host = s.host := rfl

@[simp] theorem State.setY_a (s : State) (v : Byte) : (s.setY v).a = s.a := rfl
@[simp] theorem State.setY_x (s : State) (v : Byte) : (s.setY v).x = s.x := rfl
@[simp] theorem State.setY_y (s : State) (v : Byte) : (s.setY v).y = v := rfl
@[simp] theorem State.setY_sp (s : State) (v : Byte) : (s.setY v).sp = s.sp := rfl
@[simp] theorem State.setY_pc (s : State) (v : Byte) : (s.setY v).pc = s.pc := rfl
@[simp] theorem State.setY_p (s : State) (v : Byte) : (s.setY v).p = s.p := rfl
@[simp] theorem State.setY_opcode (s : State) (v : Byte) : (s.setY v).opcode = s.opcode := rfl
@[simp] theorem State.setY_fetched (s : State) (v : Byte) : (s.setY v).fetched = s.fetched := rfl
@[simp] theorem State.setY_mode (s : State) (v : Byte) : (s.setY v).mode = s.mode := rfl
@[simp] theorem State.setY_addrAbs (s : State) (v : Byte) : (s.setY v).addrAbs = s.addrAbs := rfl
@[simp] theorem State.setY_addrRel (s : State) (v : Byte) : (s.setY v).addrRel = s.addrRel := rfl
@[simp] theorem State.setY_remaining (s : State) (v : Byte) : (s.setY v).remaining = s.remaining := rfl
@[simp] theorem State.setY_fault (s : State) (v : Byte) : (s.setY v).fault = s.fault := rfl
@[simp] theorem State.setY_mem (s : State) (v : Byte) : (s.setY v).mem = s.mem := rfl
@[simp] theorem State.setY_cfg (s : State) (v : Byte) : (s.setY v).cfg = s.cfg := rfl
@[simp] theorem State.setY_host (s : State) (v : Byte) : (s.setY v).host = s.host := rfl

@[simp] theorem State.setSp_a (s : State) (v : Byte) : (s.setSp v).a = s.a := rfl
@[simp] theorem State.setSp_x (s : State) (v : Byte) : (s.setSp v).x = s.x := rfl
@[simp] theorem State.setSp_y (s : State) (v : Byte) : (s.setSp v).y = s.y := rfl
@[simp] theorem State.setSp_sp (s : State) (v : Byte) : (s.setSp v).sp = v := rfl
@[simp] theorem State.setSp_pc (s : State) (v : Byte) : (s.setSp v).pc = s.pc := rfl
@[simp] theorem State.setSp_p (s : State) (v : Byte) : (s.setSp v).p = s.p := rfl
@[simp] theorem State.setSp_opcode (s : State) (v : Byte) : (s.setSp v).opcode = s.opcode := rfl
@[simp] theorem State.setSp_fetched (s : State) (v : Byte) : (s.setSp v).fetched = s.fetched := rfl
@[simp] theorem State.setSp_mode (s : State) (v : Byte) : (s.setSp v).mode = s.mode := rfl
@[simp] theorem State.setSp_addrAbs (s : State) (v : Byte) : (s.setSp v).addrAbs = s.addrAbs := rfl
@[simp] theorem State.setSp_addrRel (s : State) (v : Byte) : (s.setSp v).addrRel = s.addrRel := rfl
@[simp] theorem State.setSp_remaining (s : State) (v : Byte) : (s.setSp v).remaining = s.remaining := rfl
@[simp] theorem State.setSp_fault (s : State) (v : Byte) : (s.setSp v).fault = s.fault := rfl
@[simp] theorem State.setSp_mem (s : State) (v : Byte) : (s.setSp v).mem = s.mem := rfl
@[simp] theorem State.setSp_cfg (s : State) (v : Byte) : (s.setSp v).cfg = s.cfg := rfl
@[simp] theorem State.setSp_host (s : State) (v : Byte) : (s.setSp v).host = s.host := rfl

@[simp] theorem State.setPc_a (s : State) (v : Addr) : (s.setPc v).a = s.a := rfl
@[simp] theorem State.setPc_x (s : State) (v : Addr) : (s.setPc v).x = s.x := rfl
@[simp] theorem State.setPc_y (s : State) (v : Addr) : (s.setPc v).y = s.y := rfl
@[simp] theorem State.setPc_sp (s : State) (v : Addr) : (s.setPc v).sp = s.sp := rfl
@[simp] theorem State.setPc_pc (s : State) (v : Addr) : (s.setPc v).pc = v := rfl
@[simp] theorem State.setPc_p (s : State) (v : Addr) : (s.setPc v).p = s.p := rfl
@[simp] theorem State.setPc_opcode (s : State) (v : Addr) : (s.setPc v).opcode = s.opcode := rfl
@[simp] theorem State.setPc_fetched (s : State) (v : Addr) : (s.setPc v).fetched = s.fetched := rfl
@[simp] theorem State.setPc_mode (s : State) (v : Addr) : (s.setPc v).mode = s.mode := rfl
@[simp] theorem State.setPc_addrAbs (s : State) (v : Addr) : (s.setPc v).addrAbs = s.addrAbs := rfl
@[simp] theorem State.setPc_addrRel (s : State) (v : Addr) : (s.setPc v).addrRel = s.addrRel := rfl
@[simp] theorem State.setPc_remaining (s : State) (v : Addr) : (s.setPc v).remaining = s.remaining := rfl
@[simp] theorem State.setPc_fault (s : State) (v : Addr) : (s.setPc v).fault = s.fault := rfl
@[simp] theorem State.setPc_mem (s : State) (v : Addr) : (s.setPc v).mem = s.mem := rfl
@[simp] theorem State.setPc_cfg (s : State) (v : Addr) : (s.setPc v).cfg = s.cfg := rfl
@[simp] theorem State.setPc_host (s : State) (v : Addr) : (s.setPc v).host = s.host := rfl

@[simp] theorem State.setP_a (s : State) (v : Status) : (s.setP v).a = s.a := rfl
@[simp] theorem State.setP_x (s : State) (v : Status) : (s.setP v).x = s.x := rfl
@[simp] theorem State.setP_y (s : State) (v : Status) : (s.setP v).y = s.y := rfl
@[simp] theorem State.setP_sp (s : State) (v : Status) : (s.setP v).sp = s.sp := rfl
@[simp] theorem State.setP_pc (s : State) (v : Status) : (s.setP v).pc = s.pc := rfl
@[simp] theorem State.setP_p (s : State) (v : Status) : (s.setP v).p = v := rfl
@[simp] theorem State.setP_opcode (s : State) (v : Status) : (s.setP v).opcode = s.opcode := rfl
@[simp] theorem State.setP_fetched (s : State) (v : Status) : (s.setP v).fetched = s.fetched := rfl
@[simp] theorem State.setP_mode (s : State) (v : Status) : (s.setP v).mode = s.mode := rfl
@[simp] theorem State.setP_addrAbs (s : State) (v : Status) : (s.setP v).addrAbs = s.addrAbs := rfl
@[simp] theorem State.setP_addrRel (s : State) (v : Status) : (s.setP v).addrRel = s.addrRel := rfl
@[simp] theorem State.setP_remaining (s : State) (v : Status) : (s.setP v).remaining = s.remaining := rfl
@[simp] theorem State.setP_fault (s : State) (v : Status) : (s.setP v).fault = s.fault := rfl
@[simp] theorem State.setP_mem (s : State) (v : Status) : (s.setP v).mem = s.mem := rfl
@[simp] theorem State.setP_cfg (s : State) (v : Status) : (s.setP v).cfg = s.cfg := rfl
@[simp] theorem State.setP_host (s : State) (v : Status) : (s.setP v).host = s.host := rfl

@[simp] theorem State.setOpcode_a (s : State) (v : Byte) : (s.setOpcode v).a = s.a := rfl
@[simp] theorem State.setOpcode_x (s : State) (v : Byte) : (s.setOpcode v).x = s.x := rfl
@[simp] theorem State.setOpcode_y (s : State) (v : Byte) : (s.setOpcode v).y = s.y := rfl
@[simp] theorem State.setOpcode_sp (s : State) (v : Byte) : (s.setOpcode v).sp = s.sp := rfl
@[simp] theorem State.setOpcode_pc (s : State) (v : Byte) : (s.setOpcode v).pc = s.pc := rfl
@[simp] theorem State.setOpcode_p (s : State) (v : Byte) : (s.setOpcode v).p = s.p := rfl
@[simp] theorem State.setOpcode_opcode (s : State) (v : Byte) : (s.setOpcode v).opcode = v := rfl
@[simp] theorem State.setOpcode_fetched (s : State) (v : Byte) : (s.setOpcode v).fetched = s.fetched := rfl
@[simp] theorem State.setOpcode_mode (s : State) (v : Byte) : (s.setOpcode v).mode = s.mode := rfl
@[simp] theorem State.setOpcode_addrAbs (s : State) (v : Byte) : (s.setOpcode v).addrAbs = s.addrAbs := rfl
@[simp] theorem State.setOpcode_addrRel (s : State) (v : Byte) : (s.setOpcode v).addrRel = s.addrRel := rfl
@[simp] theorem State.setOpcode_remaining (s : State) (v : Byte) : (s.setOpcode v).remaining = s.remaining := rfl
@[simp] theorem State.setOpcode_fault (s : State) (v : Byte) : (s.setOpcode v).fault = s.fault := rfl
@[simp] theorem State.setOpcode_mem (s : State) (v : Byte) : (s.setOpcode v).mem = s.mem := rfl
@[simp] theorem State.setOpcode_cfg (s : State) (v : Byte) : (s.setOpcode v).cfg = s.cfg := rfl
@[simp] theorem State.setOpcode_host (s : State) (v : Byte) : (s.setOpcode v).host = s.host := rfl

@[simp] theorem State.setFetched_a (s : State) (v : Byte) : (s.setFetched v).a = s.a := rfl
@[simp] theorem State.setFetched_x (s : State) (v : Byte) : (s.setFetched v).x = s.x := rfl
@[simp] theorem State.setFetched_y (s : State) (v : Byte) : (s.setFetched v).y = s.y := rfl
@[simp] theorem State.setFetched_sp (s : State) (v : Byte) : (s.setFetched v).sp = s.sp := rfl
@[simp] theorem State.setFetched_pc (s : State) (v : Byte) : (s.setFetched v).pc = s.pc := rfl
@[simp] theorem State.setFetched_p (s : State) (v : Byte) : (s.setFetched v).p = s.p := rfl
@[simp] theorem State.setFetched_opcode (s : State) (v : Byte) : (s.setFetched v).opcode = s.opcode := rfl
@[simp] theorem State.setFetched_fetched (s : State) (v : Byte) : (s.setFetched v).fetched = v := rfl
@[simp] theorem State.setFetched_mode (s : State) (v : Byte) : (s.setFetched v).mode = s.mode := rfl
@[simp] theorem State.setFetched_addrAbs (s : State) (v : Byte) : (s.setFetched v).addrAbs = s.addrAbs := rfl
@[simp] theorem State.setFetched_addrRel (s : State) (v : Byte) : (s.setFetched v).addrRel = s.addrRel := rfl
@[simp] theorem State.setFetched_remaining (s : State) (v : Byte) : (s.setFetched v).remaining = s.remaining := rfl
@[simp] theorem State.setFetched_fault (s : State) (v : Byte) : (s.setFetched v).fault = s.fault := rfl
@[simp] theorem State.setFetched_mem (s : State) (v : Byte) : (s.setFetched v).mem = s.mem := rfl
@[simp] theorem State.setFetched_cfg (s : State) (v : Byte) : (s.setFetched v).cfg = s.cfg := rfl
@[simp] theorem State.setFetched_host (s : State) (v : Byte) : (s.setFetched v).host = s.host := rfl

@[simp] theorem State.setMode_a (s : State) (v : Mode) : (s.setMode v).a = s.a := rfl
@[simp] theorem State.setMode_x (s : State) (v : Mode) : (s.setMode v).x = s.x := rfl
@[simp] theorem State.setMode_y (s : State) (v : Mode) : (s.setMode v).y = s.y := rfl
@[simp] theorem State.setMode_sp (s : State) (v : Mode) : (s.setMode v).sp = s.sp := rfl
@[simp] theorem State.setMode_pc (s : State) (v : Mode) : (s.setMode v).pc = s.pc := rfl
@[simp] theorem State.setMode_p (s : State) (v : Mode) : (s.setMode v).p = s.p := rfl
@[simp] theorem State.setMode_opcode (s : State) (v : Mode) : (s.setMode v).opcode = s.opcode := rfl
@[simp] theorem State.setMode_fetched (s : State) (v : Mode) : (s.setMode v).fetched = s.fetched := rfl
@[simp] theorem State.setMode_mode (s : State) (v : Mode) : (s.setMode v).mode = v := rfl
@[simp] theorem State.setMode_addrAbs (s : State) (v : Mode) : (s.setMode v).addrAbs = s.addrAbs := rfl
@[simp] theorem State.setMode_addrRel (s : State) (v : Mode) : (s.setMode v).addrRel = s.addrRel := rfl
@[simp] theorem State.setMode_remaining (s : State) (v : Mode) : (s.setMode v).remaining = s.remaining := rfl
@[simp] theorem State.setMode_fault (s : State) (v : Mode) : (s.setMode v).fault = s.fault := rfl
@[simp] theorem State.setMode_mem (s : State) (v : Mode) : (s.setMode v).mem = s.mem := rfl
@[simp] theorem State.setMode_cfg (s : State) (v : Mode) : (s.setMode v).cfg = s.cfg := rfl
@[simp] theorem State.setMode_host (s : State) (v : Mode) : (s.setMode v).host = s.host := rfl

@[simp] theorem State.setAddrAbs_a (s : State) (v : Addr) : (s.setAddrAbs v).a = s.a := rfl
@[simp] theorem State.setAddrAbs_x (s : State) (v : Addr) : (s.setAddrAbs v).x = s.x := rfl
@[simp] theorem State.setAddrAbs_y (s : State) (v : Addr) : (s.setAddrAbs v).y = s.y := rfl
@[simp] theorem State.setAddrAbs_sp (s : State) (v : Addr) : (s.setAddrAbs v).sp = s.sp := rfl
@[simp] theorem State.setAddrAbs_pc (s : State) (v : Addr) : (s.setAddrAbs v).pc = s.pc := rfl
@[simp] theorem State.setAddrAbs_p (s : State) (v : Addr) : (s.setAddrAbs v).p = s.p := rfl
@[simp] theorem State.setAddrAbs_opcode (s : State) (v : Addr) : (s.setAddrAbs v).opcode = s.opcode := rfl
@[simp] theorem State.setAddrAbs_fetched (s : State) (v : Addr) : (s.setAddrAbs v).fetched = s.fetched := rfl
@[simp] theorem State.setAddrAbs_mode (s : State) (v : Addr) : (s.setAddrAbs v).mode = s.mode := rfl
@[simp] theorem State.setAddrAbs_addrAbs (s : State) (v : Addr) : (s.setAddrAbs v).addrAbs = v := rfl
@[simp] theorem State.setAddrAbs_addrRel (s : State) (v : Addr) : (s.setAddrAbs v).addrRel = s.addrRel := rfl
@[simp] theorem State.setAddrAbs_remaining (s : State) (v : Addr) : (s.setAddrAbs v).remaining = s.remaining := rfl
@[simp] theorem State.setAddrAbs_fault (s : State) (v : Addr) : (s.setAddrAbs v).fault = s.fault := rfl
@[simp] theorem State.setAddrAbs_mem (s : State) (v : Addr) : (s.setAddrAbs v).mem = s.mem := rfl
@[simp] theorem State.setAddrAbs_cfg (s : State) (v : Addr) : (s.setAddrAbs v).cfg = s.cfg := rfl
@[simp] theorem State.setAddrAbs_host (s : State) (v : Addr) : (s.setAddrAbs v).host = s.host := rfl

@[simp] theorem State.setAddrRel_a (s : State) (v : Addr) : (s.setAddrRel v).a = s.a := rfl
@[simp] theorem State.setAddrRel_x (s : State) (v : Addr) : (s.setAddrRel v).x = s.x := rfl
@[simp] theorem State.setAddrRel_y (s : State) (v : Addr) : (s.setAddrRel v).y = s.y := rfl
@[simp] theorem State.setAddrRel_sp (s : State) (v : Addr) : (s.setAddrRel v).sp = s.sp := rfl
@[simp] theorem State.setAddrRel_pc (s : State) (v : Addr) : (s.setAddrRel v).pc = s.pc := rfl
@[simp] theorem State.setAddrRel_p (s : State) (v : Addr) : (s.setAddrRel v).p = s.p := rfl
@[simp] theorem State.setAddrRel_opcode (s : State) (v : Addr) : (s.setAddrRel v).opcode = s.opcode := rfl
@[simp] theorem State.setAddrRel_fetched (s : State) (v : Addr) : (s.setAddrRel v).fetched = s.fetched := rfl
@[simp] theorem State.setAddrRel_mode (s : State) (v : Addr) : (s.setAddrRel v).mode = s.mode := rfl
@[simp] theorem State.setAddrRel_addrAbs (s : State) (v : Addr) : (s.setAddrRel v).addrAbs = s.addrAbs := rfl
@[simp] theorem State.setAddrRel_addrRel (s : State) (v : Addr) : (s.setAddrRel v).addrRel = v := rfl
@[simp] theorem State.setAddrRel_remaining (s : State) (v : Addr) : (s.setAddrRel v).remaining = s.remaining := rfl
@[simp] theorem State.setAddrRel_fault (s : State) (v : Addr) : (s.setAddrRel v).fault = s.fault := rfl
@[simp] theorem State.setAddrRel_mem (s : State) (v : Addr) : (s.setAddrRel v).mem = s.mem := rfl
@[simp] theorem State.setAddrRel_cfg (s : State) (v : Addr) : (s.setAddrRel v).cfg = s.cfg := rfl
@[simp] theorem State.setAddrRel_host (s : State) (v : Addr) : (s.setAddrRel v).host = s.host := rfl

@[simp] theorem State.setRemaining_a (s : State) (v : Nat) : (s.setRemaining v).a = s.a := rfl
@[simp] theorem State.setRemaining_x (s : State) (v : Nat) : (s.setRemaining v).x = s.x := rfl
@[simp] theorem State.setRemaining_y (s : State) (v : Nat) : (s.setRemaining v).y = s.y := rfl
@[simp] theorem State.setRemaining_sp (s : State) (v : Nat) : (s.setRemaining v).sp = s.sp := rfl
@[simp] theorem State.setRemaining_pc (s : State) (v : Nat) : (s.setRemaining v).pc = s.pc := rfl
@[simp] theorem State.setRemaining_p (s : State) (v : Nat) : (s.setRemaining v).p = s.p := rfl
@[simp] theorem State.setRemaining_opcode (s : State) (v : Nat) : (s.setRemaining v).opcode = s.opcode := rfl
@[simp] theorem State.setRemaining_fetched (s : State) (v : Nat) : (s.setRemaining v).fetched = s.fetched := rfl
@[simp] theorem State.setRemaining_mode (s : State) (v : Nat) : (s.setRemaining v).mode = s.mode := rfl
@[simp] theorem State.setRemaining_addrAbs (s : State) (v : Nat) : (s.setRemaining v).addrAbs = s.addrAbs := rfl
@[simp] theorem State.setRemaining_addrRel (s : State) (v : Nat) : (s.setRemaining v).addrRel = s.addrRel := rfl
@[simp] theorem State.setRemaining_remaining (s : State) (v : Nat) : (s.setRemaining v).remaining = v := rfl
@[simp] theorem State.setRemaining_fault (s : State) (v : Nat) : (s.setRemaining v).fault = s.fault := rfl
@[simp] theorem State.setRemaining_mem (s : State) (v : Nat) : (s.setRemaining v).mem = s.mem := rfl
@[simp] theorem State.setRemaining_cfg (s : State) (v : Nat) : (s.setRemaining v).cfg = s.cfg := rfl
@[simp] theorem State.setRemaining_host (s : State) (v : Nat) : (s.setRemaining v).host = s.host := rfl

@[simp] theorem State.setFault_a (s : State) (v : Option Fault) : (s.setFault v).a = s.a := rfl
@[simp] theorem State.setFault_x (s : State) (v : Option Fault) : (s.setFault v).x = s.x := rfl
@[simp] theorem State.setFault_y (s : State) (v : Option Fault) : (s.setFault v).y = s.y := rfl
@[simp] theorem State.setFault_sp (s : State) (v : Option Fault) : (s.setFault v).sp = s.sp := rfl
@[simp] theorem State.setFault_pc (s : State) (v : Option Fault) : (s.setFault v).pc = s.pc := rfl
@[simp] theorem State.setFault_p (s : State) (v : Option Fault) : (s.setFault v).p = s.p := rfl
@[simp] theorem State.setFault_opcode (s : State) (v : Option Fault) : (s.setFault v).opcode = s.opcode := rfl
@[simp] theorem State.setFault_fetched (s : State) (v : Option Fault) : (s.setFault v).fetched = s.fetched := rfl
@[simp] theorem State.setFault_mode (s : State) (v : Option Fault) : (s.setFault v).mode = s.mode := rfl
@[simp] theorem State.setFault_addrAbs (s : State) (v : Option Fault) : (s.setFault v).addrAbs = s.addrAbs := rfl
@[simp] theorem State.setFault_addrRel (s : State) (v : Option Fault) : (s.setFault v).addrRel = s.addrRel := rfl
@[simp] theorem State.setFault_remaining (s : State) (v : Option Fault) : (s.setFault v).remaining = s.remaining := rfl
@[simp] theorem State.setFault_fault (s : State) (v : Option Fault) : (s.setFault v).fault = v := rfl
@[simp] theorem State.setFault_mem (s : State) (v : Option Fault) : (s.setFault v).mem = s.mem := rfl
@[simp] theorem State.setFault_cfg (s : State) (v : Option Fault) : (s.setFault v).cfg = s.cfg := rfl
@[simp] theorem State.setFault_host (s : State) (v : Option Fault) : (s.setFault v).host = s.host := rfl

@[simp] theorem State.setMem_a (s : State) (v : Memory) : (s.setMem v).a = s.a := rfl
@[simp] theorem State.setMem_x (s : State) (v : Memory) : (s.setMem v).x = s.x := rfl
@[simp] theorem State.setMem_y (s : State) (v : Memory) : (s.setMem v).y = s.y := rfl
@[simp] theorem State.setMem_sp (s : State) (v : Memory) : (s.setMem v).sp = s.sp := rfl
@[simp] theorem State.setMem_pc (s : State) (v : Memory) : (s.setMem v).pc = s.pc := rfl
@[simp] theorem State.setMem_p (s : State) (v : Memory) : (s.setMem v).p = s.p := rfl
@[simp] theorem State.setMem_opcode (s : State) (v : Memory) : (s.setMem v).opcode = s.opcode := rfl
@[simp] theorem State.setMem_fetched (s : State) (v : Memory) : (s.setMem v).fetched = s.fetched := rfl
@[simp] theorem State.setMem_mode (s : State) (v : Memory) : (s.setMem v).mode = s.mode := rfl
@[simp] theorem State.setMem_addrAbs (s : State) (v : Memory) : (s.setMem v).addrAbs = s.addrAbs := rfl
@[simp] theorem State.setMem_addrRel (s : State) (v : Memory) : (s.setMem v).addrRel = s.addrRel := rfl
@[simp] theorem State.setMem_remaining (s : State) (v : Memory) : (s.setMem v).remaining = s.remaining := rfl
@[simp] theorem State.setMem_fault (s : State) (v : Memory) : (s.setMem v).fault = s.fault := rfl
@[simp] theorem State.setMem_mem (s : State) (v : Memory) : (s.setMem v).mem = v := rfl
@[simp] theorem State.setMem_cfg (s : State) (v : Memory) : (s.setMem v).cfg = s.cfg := rfl
@[simp] theorem State.setMem_host (s : State) (v : Memory) : (s.setMem v).host = s.host := rfl

@[simp] theorem State.setHost_a (s : State) (v : List HostAction) : (s.setHost v).a = s.a := rfl
@[simp] theorem State.setHost_x (s : State) (v : List HostAction) : (s.setHost v).x = s.x := rfl
@[simp] theorem State.setHost_y (s : State) (v : List HostAction) : (s.setHost v).y = s.y := rfl
@[simp] theorem State.setHost_sp (s : State) (v : List HostAction) : (s.setHost v).sp = s.sp := rfl
@[simp] theorem State.setHost_pc (s : State) (v : List HostAction) : (s.setHost v).pc = s.pc := rfl
@[simp] theorem State.setHost_p (s : State) (v : List HostAction) : (s.setHost v).p = s.p := rfl
@[simp] theorem State.setHost_opcode (s : State) (v : List HostAction) : (s.setHost v).opcode = s.opcode := rfl
@[simp] theorem State.setHost_fetched (s : State) (v : List HostAction) : (s.setHost v).fetched = s.fetched := rfl
@[simp] theorem State.setHost_mode (s : State) (v : List HostAction) : (s.setHost v).mode = s.mode := rfl
@[simp] theorem State.setHost_addrAbs (s : State) (v : List HostAction) : (s.setHost v).addrAbs = s.addrAbs := rfl
@[simp] theorem State.setHost_addrRel (s : State) (v : List HostAction) : (s.setHost v).addrRel = s.addrRel := rfl
@[simp] theorem State.setHost_remaining (s : State) (v : List HostAction) : (s.setHost v).remaining = s.remaining := rfl
@[simp] theorem State.setHost_fault (s : State) (v : List HostAction) : (s.setHost v).fault = s.fault := rfl
@[simp] theorem State.setHost_mem (s : State) (v : List HostAction) : (s.setHost v).mem = s.mem := rfl
@[simp] theorem State.setHost_cfg (s : State) (v : List HostAction) : (s.setHost v).cfg = s.cfg := rfl
@[simp] theorem State.setHost_host (s : State) (v : List HostAction) : (s.setHost v).host = v := rfl

end Sys2Proof.Machine
end

