-- ==== Sys2Proof/Laws/Memory.lean ====
section
/-! SUPPORT. The bus as a list: a read after a write, and the canonical form that every write keeps. -/

namespace Sys2Proof.Machine

open Sys2Proof

/-! ## Reading after a change -/

@[simp] theorem Memory.read_nil (k : Nat) : Memory.read [] k = unlistedByte := rfl

theorem Memory.read_cons (a : Nat) (b : Byte) (m : Memory) (k : Nat) :
    Memory.read ((a, b) :: m) k = if a = k then b else Memory.read m k := rfl

theorem Memory.read_insert (m : Memory) (k : Nat) (v : Byte) (j : Nat) :
    (Memory.insert m k v).read j = if j = k then v else m.read j := by
  induction m with
  | nil => simp [Memory.insert, Memory.read_cons, eq_comm]
  | cons cell m ih =>
    obtain ⟨a, b⟩ := cell
    simp only [Memory.insert]
    split
    · rw [Memory.read_cons]
      simp only [eq_comm (a := k)]
    · split
      · subst_vars
        rw [Memory.read_cons, Memory.read_cons]
        by_cases h : a = j <;> simp [h, eq_comm (a := j)]
      · simp only [Memory.read_cons, ih]
        by_cases h : a = j <;> by_cases h' : j = k <;> simp_all

theorem Memory.read_erase (m : Memory) (k j : Nat) :
    (Memory.erase m k).read j = if j = k then unlistedByte else m.read j := by
  induction m with
  | nil => simp [Memory.erase]
  | cons cell m ih =>
    obtain ⟨a, b⟩ := cell
    simp only [Memory.erase, List.filter_cons] at ih ⊢
    by_cases h : a = k
    · subst h
      by_cases h' : j = a
      · simpa [h'] using ih
      · simpa [h', Memory.read_cons, Ne.symm h'] using ih
    · by_cases h' : a = j
      · subst h'
        simp [h, Memory.read_cons]
      · simpa [h, h', Memory.read_cons] using ih

/-- R52: a write changes exactly one byte. -/
theorem Memory.read_write (m : Memory) (k : Nat) (v : Byte) (j : Nat) :
    (m.write k v).read j = if j = k then v else m.read j := by
  unfold Memory.write
  split
  · subst_vars
    exact Memory.read_erase m k j
  · exact Memory.read_insert m k v j

@[simp] theorem Memory.read_write_self (m : Memory) (k : Nat) (v : Byte) : (m.write k v).read k = v := by
  simp [Memory.read_write]

theorem Memory.read_write_of_ne (m : Memory) {k j : Nat} (v : Byte) (h : j ≠ k) :
    (m.write k v).read j = m.read j := by
  simp [Memory.read_write, h]

/-! ## Every address in a list, before and after a change -/

theorem Memory.mem_insert {m : Memory} {k : Nat} {v : Byte} {c : Host.Cell}
    (h : c ∈ Memory.insert m k v) : c = (k, v) ∨ c ∈ m := by
  induction m with
  | nil => simpa [Memory.insert] using h
  | cons cell m ih =>
    obtain ⟨a, b⟩ := cell
    simp only [Memory.insert] at h
    split at h
    · simpa using h
    · split at h
      · rcases List.mem_cons.1 h with h | h
        · exact .inl h
        · exact .inr (List.mem_cons_of_mem _ h)
      · rcases List.mem_cons.1 h with h | h
        · exact .inr (h ▸ List.mem_cons_self)
        · exact (ih h).imp id (List.mem_cons_of_mem _)

theorem Memory.mem_write {m : Memory} {k : Nat} {v : Byte} {c : Host.Cell}
    (h : c ∈ m.write k v) : c = (k, v) ∨ c ∈ m := by
  unfold Memory.write at h
  split at h
  · exact .inr (List.mem_of_mem_filter h)
  · exact Memory.mem_insert h

/-! ## The canonical form -/

theorem Memory.wf_cons (a : Nat) (b : Byte) (m : Memory) :
    Memory.wf ((a, b) :: m) = true ↔
      b ≠ unlistedByte ∧ (∀ c ∈ m, a < c.1) ∧ Memory.wf m = true := by
  simp [Memory.wf, and_assoc]

theorem Memory.insert_wf {m : Memory} {k : Nat} {v : Byte} (hv : v ≠ unlistedByte)
    (h : m.wf = true) : (Memory.insert m k v).wf = true := by
  induction m with
  | nil => simp [Memory.insert, Memory.wf, hv]
  | cons cell m ih =>
    obtain ⟨a, b⟩ := cell
    obtain ⟨hb, hlt, hm⟩ := (Memory.wf_cons a b m).1 h
    simp only [Memory.insert]
    split
    · rename_i hk
      refine (Memory.wf_cons ..).2 ⟨hv, fun c hc => ?_, h⟩
      rcases List.mem_cons.1 hc with rfl | hc
      · exact hk
      · exact lt_trans hk (hlt c hc)
    · split
      · rename_i hk
        subst hk
        exact (Memory.wf_cons ..).2 ⟨hv, hlt, hm⟩
      · refine (Memory.wf_cons ..).2 ⟨hb, fun c hc => ?_, ih hm⟩
        rcases Memory.mem_insert hc with rfl | hc
        · simp only
          omega
        · exact hlt c hc

theorem Memory.erase_wf {m : Memory} {k : Nat} (h : m.wf = true) : (m.erase k).wf = true := by
  induction m with
  | nil => rfl
  | cons cell m ih =>
    obtain ⟨a, b⟩ := cell
    obtain ⟨hb, hlt, hm⟩ := (Memory.wf_cons a b m).1 h
    simp only [Memory.erase, List.filter_cons] at ih ⊢
    split
    · exact (Memory.wf_cons ..).2 ⟨hb, fun c hc => hlt c (List.mem_of_mem_filter hc), ih hm⟩
    · exact ih hm

/-- Every write keeps the canonical form. -/
theorem Memory.write_wf {m : Memory} {k : Nat} {v : Byte} (h : m.wf = true) :
    (m.write k v).wf = true := by
  unfold Memory.write
  split
  · exact Memory.erase_wf h
  · exact Memory.insert_wf (by assumption) h

/-- A write at an address of the bus keeps every listed address on the bus. -/
theorem Memory.write_within {m : Memory} {k n : Nat} {v : Byte} (h : m.within n = true) (hk : k < n) :
    (m.write k v).within n = true := by
  simp only [Memory.within, List.all_eq_true, decide_eq_true_eq] at h ⊢
  intro c hc
  rcases Memory.mem_write hc with rfl | hc
  · exact hk
  · exact h c hc

/-- Two canonical lists that read the same everywhere are the same list. -/
theorem Memory.eq_of_read {m m' : Memory} (h : m.wf = true) (h' : m'.wf = true)
    (hr : ∀ k, m.read k = m'.read k) : m = m' := by
  have absent : ∀ {m : Memory} {a : Nat}, (∀ c ∈ m, a < c.1) → m.read a = unlistedByte := by
    intro m a hlt
    induction m with
    | nil => rfl
    | cons c m ih =>
      have := hlt c List.mem_cons_self
      rw [Memory.read_cons, if_neg (by omega), ih fun d hd => hlt d (List.mem_cons_of_mem _ hd)]
  induction m generalizing m' with
  | nil =>
    cases m' with
    | nil => rfl
    | cons c m' =>
      obtain ⟨a', b'⟩ := c
      have := hr a'
      obtain ⟨hb, -, -⟩ := (Memory.wf_cons a' b' m').1 h'
      simp [Memory.read_cons] at this
      exact absurd this.symm hb
  | cons c m ih =>
    obtain ⟨a, b⟩ := c
    obtain ⟨hb, hlt, hm⟩ := (Memory.wf_cons a b m).1 h
    cases m' with
    | nil =>
      have := hr a
      simp [Memory.read_cons] at this
      exact absurd this hb
    | cons c' m' =>
      obtain ⟨a', b'⟩ := c'
      obtain ⟨hb', hlt', hm'⟩ := (Memory.wf_cons a' b' m').1 h'
      have haa : a = a' := by
        rcases lt_trichotomy a a' with hl | he | hg
        · have h1 := hr a
          rw [Memory.read_cons, if_pos rfl, Memory.read_cons, if_neg (by omega),
            absent fun d hd => lt_trans hl (hlt' d hd)] at h1
          exact absurd h1 hb
        · exact he
        · have h1 := hr a'
          rw [Memory.read_cons, if_neg (by omega), Memory.read_cons, if_pos rfl,
            absent fun d hd => lt_trans hg (hlt d hd)] at h1
          exact absurd h1.symm hb'
      subst haa
      have hbb : b = b' := by simpa [Memory.read_cons] using hr a
      subst hbb
      rw [ih hm hm' fun k => ?_]
      by_cases hk : a = k
      · subst hk
        rw [absent hlt, absent hlt']
      · simpa [Memory.read_cons, hk] using hr k

end Sys2Proof.Machine
end

