-- ==== Sys2Proof/Laws/Ops.lean ====
section
/-! SUPPORT. What the shared operations do: when they succeed, the state they leave, and, for each, the one
form its success has ("if it answers a state, then ..."), and the access at which it faults. -/

namespace Sys2Proof.Machine

open Sys2Proof

/-! ## Computations that may fault -/

@[simp] theorem ok_bind {α β : Type} (a : α) (f : α → Except Fault β) : (Except.ok a >>= f) = f a := rfl

@[simp] theorem error_bind {α β : Type} (e : Fault) (f : α → Except Fault β) :
    ((Except.error e : Except Fault α) >>= f) = Except.error e := rfl

@[simp] theorem pure_eq_ok {α : Type} (a : α) : (pure a : Except Fault α) = Except.ok a := rfl

theorem bind_eq_ok {α β : Type} {x : Except Fault α} {f : α → Except Fault β} {b : β} :
    (x >>= f) = Except.ok b ↔ ∃ a, x = Except.ok a ∧ f a = Except.ok b := by
  cases x <;> simp

theorem bind_eq_error {α β : Type} {x : Except Fault α} {f : α → Except Fault β} {e : Fault} :
    (x >>= f) = Except.error e ↔ x = Except.error e ∨ ∃ a, x = Except.ok a ∧ f a = Except.error e := by
  cases x <;> simp

@[simp] theorem outcome_ok (s : State) : outcome (.ok s) = .next s := rfl

@[simp] theorem outcome_error (f : Fault) : outcome (.error f) = .fault f := rfl

theorem outcome_eq_next {x : Except Fault State} {t : State} : outcome x = .next t ↔ x = .ok t := by
  cases x <;> simp [outcome]

theorem outcome_eq_fault {x : Except Fault State} {f : Fault} : outcome x = .fault f ↔ x = .error f := by
  cases x <;> simp [outcome]

/-! ## The bus -/

theorem memRead_of_inBus {s : State} {addr : Addr} (h : s.inBus addr = true) :
    memRead s addr = .ok (s.byteAt addr) := by
  simp [memRead, h]

theorem memRead_of_not_inBus {s : State} {addr : Addr} (h : s.inBus addr = false) :
    memRead s addr = .error (.addressingFault addr) := by
  simp [memRead, h]

theorem memRead_eq_ok {s : State} {addr : Addr} {v : Byte} :
    memRead s addr = .ok v ↔ s.inBus addr = true ∧ v = s.byteAt addr := by
  cases h : s.inBus addr
  · simp [memRead, h]
  · simp only [memRead, h, if_true, Except.ok.injEq, true_and]
    exact eq_comm

theorem memRead_eq_error {s : State} {addr : Addr} {f : Fault} :
    memRead s addr = .error f ↔ s.inBus addr = false ∧ f = .addressingFault addr := by
  cases h : s.inBus addr
  · simp only [memRead, h, Bool.false_eq_true, if_false, Except.error.injEq, true_and]
    exact eq_comm
  · simp [memRead, h]

/-- The state a successful byte write leaves. -/
def State.wrote (s : State) (addr : Addr) (v : Byte) : State :=
  s.setMem (s.mem.write addr.toNat v)

theorem memWrite_of_inBus {s : State} {addr : Addr} {v : Byte} (h : s.inBus addr = true) :
    memWrite s addr v = .ok (s.wrote addr v) := by
  simp [memWrite, h, State.wrote]

theorem memWrite_eq_ok {s t : State} {addr : Addr} {v : Byte} :
    memWrite s addr v = .ok t ↔ s.inBus addr = true ∧ t = s.wrote addr v := by
  cases h : s.inBus addr
  · simp [memWrite, h]
  · simp only [memWrite, h, if_true, Except.ok.injEq, true_and]
    exact eq_comm

theorem memWrite_eq_error {s : State} {addr : Addr} {v : Byte} {f : Fault} :
    memWrite s addr v = .error f ↔ s.inBus addr = false ∧ f = .addressingFault addr := by
  cases h : s.inBus addr
  · simp only [memWrite, h, Bool.false_eq_true, if_false, Except.error.injEq, true_and]
    exact eq_comm
  · simp [memWrite, h]

@[simp] theorem State.wrote_a (s : State) (addr : Addr) (v : Byte) : (s.wrote addr v).a = s.a := rfl
@[simp] theorem State.wrote_x (s : State) (addr : Addr) (v : Byte) : (s.wrote addr v).x = s.x := rfl
@[simp] theorem State.wrote_y (s : State) (addr : Addr) (v : Byte) : (s.wrote addr v).y = s.y := rfl
@[simp] theorem State.wrote_sp (s : State) (addr : Addr) (v : Byte) : (s.wrote addr v).sp = s.sp := rfl
@[simp] theorem State.wrote_pc (s : State) (addr : Addr) (v : Byte) : (s.wrote addr v).pc = s.pc := rfl
@[simp] theorem State.wrote_p (s : State) (addr : Addr) (v : Byte) : (s.wrote addr v).p = s.p := rfl
@[simp] theorem State.wrote_opcode (s : State) (addr : Addr) (v : Byte) : (s.wrote addr v).opcode = s.opcode := rfl
@[simp] theorem State.wrote_fetched (s : State) (addr : Addr) (v : Byte) : (s.wrote addr v).fetched = s.fetched := rfl
@[simp] theorem State.wrote_mode (s : State) (addr : Addr) (v : Byte) : (s.wrote addr v).mode = s.mode := rfl
@[simp] theorem State.wrote_addrAbs (s : State) (addr : Addr) (v : Byte) : (s.wrote addr v).addrAbs = s.addrAbs := rfl
@[simp] theorem State.wrote_addrRel (s : State) (addr : Addr) (v : Byte) : (s.wrote addr v).addrRel = s.addrRel := rfl
@[simp] theorem State.wrote_remaining (s : State) (addr : Addr) (v : Byte) : (s.wrote addr v).remaining = s.remaining := rfl
@[simp] theorem State.wrote_fault (s : State) (addr : Addr) (v : Byte) : (s.wrote addr v).fault = s.fault := rfl
@[simp] theorem State.wrote_cfg (s : State) (addr : Addr) (v : Byte) : (s.wrote addr v).cfg = s.cfg := rfl
@[simp] theorem State.wrote_host (s : State) (addr : Addr) (v : Byte) : (s.wrote addr v).host = s.host := rfl

@[simp] theorem State.wrote_mem (s : State) (addr : Addr) (v : Byte) :
    (s.wrote addr v).mem = s.mem.write addr.toNat v := rfl

theorem inBus_congr {s t : State} (h : t.cfg = s.cfg) (addr : Addr) : t.inBus addr = s.inBus addr := by
  simp [State.inBus, h]

@[simp] theorem State.wrote_inBus (s : State) (addr : Addr) (v : Byte) (k : Addr) :
    (s.wrote addr v).inBus k = s.inBus k := rfl

theorem State.wrote_byteAt (s : State) (addr : Addr) (v : Byte) (k : Addr) :
    (s.wrote addr v).byteAt k = if k = addr then v else s.byteAt k := by
  simp [State.byteAt, Memory.read_write, BitVec.toNat_inj]

theorem memRead16_of_inBus {s : State} {addr : Addr} (h : s.inBus addr = true)
    (h' : s.inBus (addr + 1) = true) : memRead16 s addr = .ok (s.wordAt addr) := by
  rw [memRead16, memRead_of_inBus h, ok_bind, memRead_of_inBus h']
  rfl

theorem memRead16_eq_ok {s : State} {addr w : Addr} :
    memRead16 s addr = .ok w ↔
      s.inBus addr = true ∧ s.inBus (addr + 1) = true ∧ w = s.wordAt addr := by
  simp only [memRead16, bind_eq_ok, memRead_eq_ok, pure_eq_ok, Except.ok.injEq]
  constructor
  · rintro ⟨_, ⟨h, rfl⟩, _, ⟨h', rfl⟩, rfl⟩
    exact ⟨h, h', rfl⟩
  · rintro ⟨h, h', rfl⟩
    exact ⟨_, ⟨h, rfl⟩, _, ⟨h', rfl⟩, rfl⟩

/-! ## What the setters leave of the bus -/

@[simp] theorem State.setA_inBus (s : State) (v : Byte) (k : Addr) :
    (s.setA v).inBus k = s.inBus k := rfl
@[simp] theorem State.setA_byteAt (s : State) (v : Byte) (k : Addr) :
    (s.setA v).byteAt k = s.byteAt k := rfl
@[simp] theorem State.setX_inBus (s : State) (v : Byte) (k : Addr) :
    (s.setX v).inBus k = s.inBus k := rfl
@[simp] theorem State.setX_byteAt (s : State) (v : Byte) (k : Addr) :
    (s.setX v).byteAt k = s.byteAt k := rfl
@[simp] theorem State.setY_inBus (s : State) (v : Byte) (k : Addr) :
    (s.setY v).inBus k = s.inBus k := rfl
@[simp] theorem State.setY_byteAt (s : State) (v : Byte) (k : Addr) :
    (s.setY v).byteAt k = s.byteAt k := rfl
@[simp] theorem State.setSp_inBus (s : State) (v : Byte) (k : Addr) :
    (s.setSp v).inBus k = s.inBus k := rfl
@[simp] theorem State.setSp_byteAt (s : State) (v : Byte) (k : Addr) :
    (s.setSp v).byteAt k = s.byteAt k := rfl
@[simp] theorem State.setPc_inBus (s : State) (v : Addr) (k : Addr) :
    (s.setPc v).inBus k = s.inBus k := rfl
@[simp] theorem State.setPc_byteAt (s : State) (v : Addr) (k : Addr) :
    (s.setPc v).byteAt k = s.byteAt k := rfl
@[simp] theorem State.setP_inBus (s : State) (v : Status) (k : Addr) :
    (s.setP v).inBus k = s.inBus k := rfl
@[simp] theorem State.setP_byteAt (s : State) (v : Status) (k : Addr) :
    (s.setP v).byteAt k = s.byteAt k := rfl
@[simp] theorem State.setOpcode_inBus (s : State) (v : Byte) (k : Addr) :
    (s.setOpcode v).inBus k = s.inBus k := rfl
@[simp] theorem State.setOpcode_byteAt (s : State) (v : Byte) (k : Addr) :
    (s.setOpcode v).byteAt k = s.byteAt k := rfl
@[simp] theorem State.setFetched_inBus (s : State) (v : Byte) (k : Addr) :
    (s.setFetched v).inBus k = s.inBus k := rfl
@[simp] theorem State.setFetched_byteAt (s : State) (v : Byte) (k : Addr) :
    (s.setFetched v).byteAt k = s.byteAt k := rfl
@[simp] theorem State.setMode_inBus (s : State) (v : Mode) (k : Addr) :
    (s.setMode v).inBus k = s.inBus k := rfl
@[simp] theorem State.setMode_byteAt (s : State) (v : Mode) (k : Addr) :
    (s.setMode v).byteAt k = s.byteAt k := rfl
@[simp] theorem State.setAddrAbs_inBus (s : State) (v : Addr) (k : Addr) :
    (s.setAddrAbs v).inBus k = s.inBus k := rfl
@[simp] theorem State.setAddrAbs_byteAt (s : State) (v : Addr) (k : Addr) :
    (s.setAddrAbs v).byteAt k = s.byteAt k := rfl
@[simp] theorem State.setAddrRel_inBus (s : State) (v : Addr) (k : Addr) :
    (s.setAddrRel v).inBus k = s.inBus k := rfl
@[simp] theorem State.setAddrRel_byteAt (s : State) (v : Addr) (k : Addr) :
    (s.setAddrRel v).byteAt k = s.byteAt k := rfl
@[simp] theorem State.setRemaining_inBus (s : State) (v : Nat) (k : Addr) :
    (s.setRemaining v).inBus k = s.inBus k := rfl
@[simp] theorem State.setRemaining_byteAt (s : State) (v : Nat) (k : Addr) :
    (s.setRemaining v).byteAt k = s.byteAt k := rfl
@[simp] theorem State.setFault_inBus (s : State) (v : Option Fault) (k : Addr) :
    (s.setFault v).inBus k = s.inBus k := rfl
@[simp] theorem State.setFault_byteAt (s : State) (v : Option Fault) (k : Addr) :
    (s.setFault v).byteAt k = s.byteAt k := rfl
@[simp] theorem State.setMem_inBus (s : State) (v : Memory) (k : Addr) :
    (s.setMem v).inBus k = s.inBus k := rfl
@[simp] theorem State.setHost_inBus (s : State) (v : List HostAction) (k : Addr) :
    (s.setHost v).inBus k = s.inBus k := rfl
@[simp] theorem State.setHost_byteAt (s : State) (v : List HostAction) (k : Addr) :
    (s.setHost v).byteAt k = s.byteAt k := rfl

/-! ## The stack -/

/-- The state a successful push of one byte leaves (R57). -/
def State.pushed8 (s : State) (v : Byte) : State := (s.wrote (stackAddr s.sp) v).setSp (s.sp - 1)

/-- The state a successful pull of one byte leaves (R58). -/
def State.pulled8 (s : State) : State := s.setSp (s.sp + 1)

@[simp] theorem State.pushed8_a (s : State) (v : Byte) : (s.pushed8 v).a = s.a := rfl
@[simp] theorem State.pushed8_x (s : State) (v : Byte) : (s.pushed8 v).x = s.x := rfl
@[simp] theorem State.pushed8_y (s : State) (v : Byte) : (s.pushed8 v).y = s.y := rfl
@[simp] theorem State.pushed8_sp (s : State) (v : Byte) : (s.pushed8 v).sp = s.sp - 1 := rfl
@[simp] theorem State.pushed8_pc (s : State) (v : Byte) : (s.pushed8 v).pc = s.pc := rfl
@[simp] theorem State.pushed8_p (s : State) (v : Byte) : (s.pushed8 v).p = s.p := rfl
@[simp] theorem State.pushed8_opcode (s : State) (v : Byte) : (s.pushed8 v).opcode = s.opcode := rfl
@[simp] theorem State.pushed8_fetched (s : State) (v : Byte) : (s.pushed8 v).fetched = s.fetched := rfl
@[simp] theorem State.pushed8_mode (s : State) (v : Byte) : (s.pushed8 v).mode = s.mode := rfl
@[simp] theorem State.pushed8_addrAbs (s : State) (v : Byte) : (s.pushed8 v).addrAbs = s.addrAbs := rfl
@[simp] theorem State.pushed8_addrRel (s : State) (v : Byte) : (s.pushed8 v).addrRel = s.addrRel := rfl
@[simp] theorem State.pushed8_remaining (s : State) (v : Byte) : (s.pushed8 v).remaining = s.remaining := rfl
@[simp] theorem State.pushed8_fault (s : State) (v : Byte) : (s.pushed8 v).fault = s.fault := rfl
@[simp] theorem State.pushed8_cfg (s : State) (v : Byte) : (s.pushed8 v).cfg = s.cfg := rfl
@[simp] theorem State.pushed8_host (s : State) (v : Byte) : (s.pushed8 v).host = s.host := rfl

@[simp] theorem State.pushed8_mem (s : State) (v : Byte) :
    (s.pushed8 v).mem = s.mem.write (stackAddr s.sp).toNat v := rfl

@[simp] theorem State.pushed8_inBus (s : State) (v : Byte) (k : Addr) :
    (s.pushed8 v).inBus k = s.inBus k := rfl

theorem State.pushed8_byteAt (s : State) (v : Byte) (k : Addr) :
    (s.pushed8 v).byteAt k = if k = stackAddr s.sp then v else s.byteAt k :=
  s.wrote_byteAt (stackAddr s.sp) v k

@[simp] theorem State.pulled8_a (s : State) : s.pulled8.a = s.a := rfl
@[simp] theorem State.pulled8_x (s : State) : s.pulled8.x = s.x := rfl
@[simp] theorem State.pulled8_y (s : State) : s.pulled8.y = s.y := rfl
@[simp] theorem State.pulled8_sp (s : State) : s.pulled8.sp = s.sp + 1 := rfl
@[simp] theorem State.pulled8_pc (s : State) : s.pulled8.pc = s.pc := rfl
@[simp] theorem State.pulled8_p (s : State) : s.pulled8.p = s.p := rfl
@[simp] theorem State.pulled8_opcode (s : State) : s.pulled8.opcode = s.opcode := rfl
@[simp] theorem State.pulled8_fetched (s : State) : s.pulled8.fetched = s.fetched := rfl
@[simp] theorem State.pulled8_mode (s : State) : s.pulled8.mode = s.mode := rfl
@[simp] theorem State.pulled8_addrAbs (s : State) : s.pulled8.addrAbs = s.addrAbs := rfl
@[simp] theorem State.pulled8_addrRel (s : State) : s.pulled8.addrRel = s.addrRel := rfl
@[simp] theorem State.pulled8_remaining (s : State) : s.pulled8.remaining = s.remaining := rfl
@[simp] theorem State.pulled8_fault (s : State) : s.pulled8.fault = s.fault := rfl
@[simp] theorem State.pulled8_cfg (s : State) : s.pulled8.cfg = s.cfg := rfl
@[simp] theorem State.pulled8_host (s : State) : s.pulled8.host = s.host := rfl
@[simp] theorem State.pulled8_mem (s : State) : s.pulled8.mem = s.mem := rfl

@[simp] theorem State.pulled8_inBus (s : State) (k : Addr) : s.pulled8.inBus k = s.inBus k := rfl

@[simp] theorem State.pulled8_byteAt (s : State) (k : Addr) : s.pulled8.byteAt k = s.byteAt k := rfl

theorem stackAddr_toNat (sp : Byte) : (stackAddr sp).toNat = 0x100 + sp.toNat := stackPage_toNat sp

/-- Different stack pointers designate different bytes (R24). -/
theorem stackAddr_inj {i j : Byte} : stackAddr i = stackAddr j ↔ i = j := by
  refine ⟨fun h => ?_, fun h => h ▸ rfl⟩
  have low : ∀ b : Byte, (stackAddr b).setWidth 8 = b := by decide
  rw [← low i, h, low]

theorem push8_of_inBus {s : State} {v : Byte} (h : s.inBus (stackAddr s.sp) = true) :
    push8 s v = .ok (s.pushed8 v) := by
  rw [push8, memWrite_of_inBus h]
  rfl

theorem push8_eq_ok {s t : State} {v : Byte} :
    push8 s v = .ok t ↔ s.inBus (stackAddr s.sp) = true ∧ t = s.pushed8 v := by
  simp only [push8, bind_eq_ok, memWrite_eq_ok, pure_eq_ok, Except.ok.injEq]
  constructor
  · rintro ⟨_, ⟨h, rfl⟩, rfl⟩
    exact ⟨h, rfl⟩
  · rintro ⟨h, rfl⟩
    exact ⟨_, ⟨h, rfl⟩, rfl⟩

theorem push8_eq_error {s : State} {v : Byte} {f : Fault} :
    push8 s v = .error f ↔
      s.inBus (stackAddr s.sp) = false ∧ f = .addressingFault (stackAddr s.sp) := by
  simp [push8, bind_eq_error, memWrite_eq_error]

theorem pull8_of_inBus {s : State} (h : s.inBus (stackAddr (s.sp + 1)) = true) :
    pull8 s = .ok (s.byteAt (stackAddr (s.sp + 1)), s.pulled8) := by
  have h' : s.pulled8.inBus (stackAddr s.pulled8.sp) = true := h
  rw [pull8]
  change (memRead s.pulled8 (stackAddr s.pulled8.sp) >>= fun v => pure (v, s.pulled8)) = _
  rw [memRead_of_inBus h']
  rfl

theorem pull8_eq_ok {s t : State} {v : Byte} :
    pull8 s = .ok (v, t) ↔
      s.inBus (stackAddr (s.sp + 1)) = true ∧ v = s.byteAt (stackAddr (s.sp + 1)) ∧ t = s.pulled8 := by
  rw [pull8]
  change (memRead s.pulled8 (stackAddr s.pulled8.sp) >>= fun v => pure (v, s.pulled8)) = _ ↔ _
  simp only [bind_eq_ok, memRead_eq_ok, pure_eq_ok, Except.ok.injEq, Prod.mk.injEq]
  constructor
  · rintro ⟨_, ⟨h, rfl⟩, rfl, rfl⟩
    exact ⟨h, rfl, rfl⟩
  · rintro ⟨h, rfl, rfl⟩
    exact ⟨_, ⟨h, rfl⟩, rfl, rfl⟩

theorem pull8_eq_error {s : State} {f : Fault} :
    pull8 s = .error f ↔
      s.inBus (stackAddr (s.sp + 1)) = false ∧ f = .addressingFault (stackAddr (s.sp + 1)) := by
  rw [pull8]
  change (memRead s.pulled8 (stackAddr s.pulled8.sp) >>= fun v => pure (v, s.pulled8)) = _ ↔ _
  simp only [bind_eq_error, memRead_eq_error, pure_eq_ok, reduceCtorEq, and_false, exists_false, or_false]
  rfl

theorem push16_of_inBus {s : State} {w : Addr} (h : s.inBus (stackAddr s.sp) = true)
    (h' : s.inBus (stackAddr (s.sp - 1)) = true) :
    push16 s w = .ok ((s.pushed8 (hi w)).pushed8 (lo w)) := by
  rw [push16, push8_of_inBus h, ok_bind, push8_of_inBus (s := s.pushed8 (hi w)) h']

theorem push16_eq_ok {s t : State} {w : Addr} :
    push16 s w = .ok t ↔
      s.inBus (stackAddr s.sp) = true ∧ s.inBus (stackAddr (s.sp - 1)) = true ∧
        t = (s.pushed8 (hi w)).pushed8 (lo w) := by
  simp only [push16, bind_eq_ok, push8_eq_ok]
  constructor
  · rintro ⟨_, ⟨h, rfl⟩, h', rfl⟩
    exact ⟨h, h', rfl⟩
  · rintro ⟨h, h', rfl⟩
    exact ⟨_, ⟨h, rfl⟩, h', rfl⟩

theorem pull16_of_inBus {s : State} (h : s.inBus (stackAddr (s.sp + 1)) = true)
    (h' : s.inBus (stackAddr (s.sp + 1 + 1)) = true) :
    pull16 s = .ok (cat (s.byteAt (stackAddr (s.sp + 1 + 1))) (s.byteAt (stackAddr (s.sp + 1))),
      s.pulled8.pulled8) := by
  rw [pull16, pull8_of_inBus h, ok_bind]
  change (pull8 s.pulled8 >>= fun r => pure (cat r.1 _, r.2)) = _
  rw [pull8_of_inBus (s := s.pulled8) h']
  rfl

theorem pull16_eq_ok {s t : State} {w : Addr} :
    pull16 s = .ok (w, t) ↔
      s.inBus (stackAddr (s.sp + 1)) = true ∧ s.inBus (stackAddr (s.sp + 1 + 1)) = true ∧
        w = cat (s.byteAt (stackAddr (s.sp + 1 + 1))) (s.byteAt (stackAddr (s.sp + 1))) ∧
        t = s.pulled8.pulled8 := by
  simp only [pull16, bind_eq_ok, Prod.exists, pull8_eq_ok, pure_eq_ok, Except.ok.injEq, Prod.mk.injEq]
  constructor
  · rintro ⟨_, _, ⟨h, rfl, rfl⟩, _, _, ⟨h', rfl, rfl⟩, rfl, rfl⟩
    exact ⟨h, h', rfl, rfl⟩
  · rintro ⟨h, h', rfl, rfl⟩
    exact ⟨_, _, ⟨h, rfl, rfl⟩, _, _, ⟨h', rfl, rfl⟩, rfl, rfl⟩

/-! ## Taking an exception and returning from one -/

/-- The state of a successful entry before PC is loaded (R312, R318): three pushes, U and I set. -/
def State.entered (s : State) (break_ : Bool) : State :=
  ((((s.pushed8 (hi s.pc)).pushed8 (lo s.pc)).setP { s.p with u := true }).pushed8
    (s.p.pushed break_)).setP { s.p with u := true, i := true }

/-- The bytes after an entry's three pushes. -/
theorem State.entered_byteAt (s : State) (break_ : Bool) (k : Addr) :
    (s.entered break_).byteAt k =
      if k = stackAddr (s.sp - 1 - 1) then s.p.pushed break_
      else if k = stackAddr (s.sp - 1) then lo s.pc
      else if k = stackAddr s.sp then hi s.pc
      else s.byteAt k := by
  simp only [State.entered, State.setP_byteAt, State.pushed8_byteAt, State.setP_sp, State.pushed8_sp]

/-- An entry writes the stack page only. -/
theorem State.entered_byteAt_of_page (s : State) (break_ : Bool) {k : Addr} (h : 0x200 ≤ k.toNat) :
    (s.entered break_).byteAt k = s.byteAt k := by
  have ne (sp : Byte) : k ≠ stackAddr sp := fun hk => by
    have hs := sp.isLt
    rw [hk, stackAddr_toNat] at h
    omega
  rw [State.entered_byteAt, if_neg (ne _), if_neg (ne _), if_neg (ne _)]

theorem entryInBus_iff {s : State} {vector : Addr} :
    entryInBus s vector = true ↔
      s.inBus (stackAddr s.sp) = true ∧ s.inBus (stackAddr (s.sp - 1)) = true ∧
        s.inBus (stackAddr (s.sp - 1 - 1)) = true ∧ s.inBus vector = true ∧
          s.inBus (vector + 1) = true := by
  have e : s.sp - 1 - 1 = s.sp - 2 := by rw [sub_sub]; rfl
  simp only [entryInBus, e, Bool.and_eq_true, and_assoc]

theorem enterException_eq_ok {s t : State} {vector : Addr} {break_ : Bool} :
    enterException s vector break_ = .ok t ↔
      entryInBus s vector = true ∧
        t = (s.entered break_).setPc ((s.entered break_).wordAt vector) := by
  simp only [enterException, entryInBus_iff, bind_eq_ok, push16_eq_ok, push8_eq_ok, memRead16_eq_ok,
    pure_eq_ok, Except.ok.injEq]
  constructor
  · rintro ⟨_, ⟨h1, h2, rfl⟩, _, ⟨h3, rfl⟩, _, ⟨h4, h5, rfl⟩, rfl⟩
    simp only [State.setP_inBus, State.pushed8_inBus, State.setP_sp, State.pushed8_sp] at h3 h4 h5
    exact ⟨⟨h1, h2, h3, h4, h5⟩, rfl⟩
  · rintro ⟨⟨h1, h2, h3, h4, h5⟩, rfl⟩
    refine ⟨_, ⟨h1, h2, rfl⟩, _, ⟨?_, rfl⟩, _, ⟨?_, ?_, rfl⟩, rfl⟩ <;>
      simpa only [State.setP_inBus, State.pushed8_inBus, State.setP_sp, State.pushed8_sp]

/-- The state a successful return leaves (R223). -/
def State.returned (s : State) : State :=
  ((s.pulled8.setP (Status.ofPulled (s.byteAt (stackAddr (s.sp + 1))))).pulled8.pulled8).setPc
    (cat (s.byteAt (stackAddr (s.sp + 1 + 1 + 1))) (s.byteAt (stackAddr (s.sp + 1 + 1))))

theorem returnFromException_eq_ok {s t : State} :
    returnFromException s = .ok t ↔
      s.inBus (stackAddr (s.sp + 1)) = true ∧ s.inBus (stackAddr (s.sp + 1 + 1)) = true ∧
        s.inBus (stackAddr (s.sp + 1 + 1 + 1)) = true ∧ t = s.returned := by
  simp only [returnFromException, bind_eq_ok, Prod.exists, pull8_eq_ok, pull16_eq_ok, pure_eq_ok,
    Except.ok.injEq]
  constructor
  · rintro ⟨_, _, ⟨h1, rfl, rfl⟩, _, _, ⟨h2, h3, rfl, rfl⟩, rfl⟩
    exact ⟨h1, h2, h3, rfl⟩
  · rintro ⟨h1, h2, h3, rfl⟩
    exact ⟨_, _, ⟨h1, rfl, rfl⟩, _, _, ⟨h2, h3, rfl, rfl⟩, rfl⟩

/-! ## Which access of a sequence faults (R330) -/

@[simp] theorem State.firstOutside_nil (s : State) : s.firstOutside [] = none := rfl

theorem State.firstOutside_cons_eq_some {s : State} {k addr : Addr} {l : List Addr} :
    s.firstOutside (k :: l) = some addr ↔
      (s.inBus k = false ∧ k = addr) ∨ (s.inBus k = true ∧ s.firstOutside l = some addr) := by
  cases h : s.inBus k <;> simp [State.firstOutside, h]

theorem State.firstOutside_congr {s t : State} (h : t.cfg = s.cfg) (l : List Addr) :
    t.firstOutside l = s.firstOutside l := by
  simp only [State.firstOutside, inBus_congr h]

theorem checkReads_of_firstOutside {s : State} {l : List Addr} {addr : Addr}
    (h : s.firstOutside l = some addr) : checkReads s l = .error (.addressingFault addr) := by
  induction l with
  | nil => simp at h
  | cons k l ih =>
    obtain ⟨hk, rfl⟩ | ⟨hk, h⟩ := State.firstOutside_cons_eq_some.1 h
    · rw [checkReads, memRead_of_not_inBus hk, error_bind]
    · rw [checkReads, memRead_of_inBus hk, ok_bind, ih h]

theorem memRead16_of_firstOutside {s : State} {k addr : Addr} (h : s.firstOutside [k, k + 1] = some addr) :
    memRead16 s k = .error (.addressingFault addr) := by
  simp only [State.firstOutside_cons_eq_some, State.firstOutside_nil, reduceCtorEq, and_false, or_false] at h
  obtain ⟨hk, rfl⟩ | ⟨hk, hk', rfl⟩ := h
  · rw [memRead16, memRead_of_not_inBus hk, error_bind]
  · rw [memRead16, memRead_of_inBus hk, ok_bind, memRead_of_not_inBus hk', error_bind]

theorem push16_of_firstOutside {s : State} {w addr : Addr}
    (h : s.firstOutside [stackAddr s.sp, stackAddr (s.sp - 1)] = some addr) :
    push16 s w = .error (.addressingFault addr) := by
  simp only [State.firstOutside_cons_eq_some, State.firstOutside_nil, reduceCtorEq, and_false, or_false] at h
  obtain ⟨hk, rfl⟩ | ⟨hk, hk', rfl⟩ := h
  · rw [push16, push8_eq_error.2 ⟨hk, rfl⟩, error_bind]
  · rw [push16, push8_of_inBus hk, ok_bind]
    exact push8_eq_error.2 ⟨hk', rfl⟩

theorem pull16_of_firstOutside {s : State} {addr : Addr}
    (h : s.firstOutside [stackAddr (s.sp + 1), stackAddr (s.sp + 1 + 1)] = some addr) :
    pull16 s = .error (.addressingFault addr) := by
  simp only [State.firstOutside_cons_eq_some, State.firstOutside_nil, reduceCtorEq, and_false, or_false] at h
  obtain ⟨hk, rfl⟩ | ⟨hk, hk', rfl⟩ := h
  · rw [pull16, pull8_eq_error.2 ⟨hk, rfl⟩, error_bind]
  · rw [pull16, pull8_of_inBus hk, ok_bind]
    exact bind_eq_error.2 (.inl (pull8_eq_error.2 ⟨hk', rfl⟩))

/-- An entry stops at the first of its five accesses that the bus does not have (R312, R330). -/
theorem enterException_of_firstOutside {s : State} {vector addr : Addr} {break_ : Bool}
    (h : s.firstOutside (entryAccesses s vector) = some addr) :
    enterException s vector break_ = .error (.addressingFault addr) := by
  have e : s.sp - 1 - 1 = s.sp - 2 := by rw [sub_sub]; rfl
  rw [entryAccesses, State.firstOutside_cons_eq_some, State.firstOutside_cons_eq_some] at h
  obtain ⟨h1, h⟩ | ⟨h1, ⟨h2, h⟩ | ⟨h2, h⟩⟩ := h
  · rw [enterException, push16_of_firstOutside (State.firstOutside_cons_eq_some.2 (.inl ⟨h1, h⟩)), error_bind]
  · rw [enterException, push16_of_firstOutside (State.firstOutside_cons_eq_some.2
      (.inr ⟨h1, State.firstOutside_cons_eq_some.2 (.inl ⟨h2, h⟩)⟩)), error_bind]
  · rw [enterException, push16_of_inBus h1 h2, ok_bind]
    obtain ⟨h3, rfl⟩ | ⟨h3, h⟩ := State.firstOutside_cons_eq_some.1 h <;> rw [← e] at h3
    · refine bind_eq_error.2 (.inl (push8_eq_error.2 ⟨h3, ?_⟩))
      rw [← e]
      rfl
    · refine bind_eq_error.2 (.inr ⟨_, push8_eq_ok.2 ⟨h3, rfl⟩, ?_⟩)
      refine bind_eq_error.2 (.inl (memRead16_of_firstOutside ?_))
      exact (State.firstOutside_congr (by simp) _).trans h

/-- A return stops at the first of its three pulls that the bus does not have (R223, R330). -/
theorem returnFromException_of_firstOutside {s : State} {addr : Addr}
    (h : s.firstOutside [stackAddr (s.sp + 1), stackAddr (s.sp + 1 + 1), stackAddr (s.sp + 1 + 1 + 1)] =
      some addr) : returnFromException s = .error (.addressingFault addr) := by
  obtain ⟨h1, rfl⟩ | ⟨h1, h⟩ := State.firstOutside_cons_eq_some.1 h
  · rw [returnFromException, pull8_eq_error.2 ⟨h1, rfl⟩, error_bind]
  · rw [returnFromException, pull8_of_inBus h1, ok_bind]
    refine bind_eq_error.2 (.inl (pull16_of_firstOutside ?_))
    exact (State.firstOutside_congr (by simp) _).trans h

/-! ## The operand read, the write-back and the mode function -/

theorem checkReads_eq_ok {s : State} {l : List Addr} :
    checkReads s l = .ok () ↔ l.all s.inBus = true := by
  induction l with
  | nil => simp [checkReads]
  | cons addr l ih => simp [checkReads, bind_eq_ok, memRead_eq_ok, ih]

/-- The state a mode function leaves (R100). -/
def State.resolved (s : State) (o : Operand) : State :=
  let s' :=
    (((s.setMode o.mode).setAddrAbs (effAddr o s)).setAddrRel (relOffset o s)).setPc
      (s.pc + BitVec.ofNat 16 o.mode.operandBytes)
  if o.mode = .imp then s'.setFetched s.a else s'

theorem resolve_eq_ok {o : Operand} {s t : State} {mx : Bool} :
    resolve o s = .ok (t, mx) ↔
      pointersInBus o s = true ∧ t = s.resolved o ∧ mx = pageCrossed o s := by
  simp only [resolve, bind_eq_ok, pure_eq_ok, Except.ok.injEq, Prod.mk.injEq]
  constructor
  · rintro ⟨_, h, rfl, rfl⟩
    exact ⟨checkReads_eq_ok.1 h, rfl, rfl⟩
  · rintro ⟨h, rfl, rfl⟩
    exact ⟨_, checkReads_eq_ok.2 h, rfl, rfl⟩

@[simp] theorem State.resolved_a (s : State) (o : Operand) : (s.resolved o).a = s.a := by
  unfold State.resolved; split <;> rfl
@[simp] theorem State.resolved_x (s : State) (o : Operand) : (s.resolved o).x = s.x := by
  unfold State.resolved; split <;> rfl
@[simp] theorem State.resolved_y (s : State) (o : Operand) : (s.resolved o).y = s.y := by
  unfold State.resolved; split <;> rfl
@[simp] theorem State.resolved_sp (s : State) (o : Operand) : (s.resolved o).sp = s.sp := by
  unfold State.resolved; split <;> rfl
@[simp] theorem State.resolved_p (s : State) (o : Operand) : (s.resolved o).p = s.p := by
  unfold State.resolved; split <;> rfl
@[simp] theorem State.resolved_opcode (s : State) (o : Operand) : (s.resolved o).opcode = s.opcode := by
  unfold State.resolved; split <;> rfl
@[simp] theorem State.resolved_remaining (s : State) (o : Operand) : (s.resolved o).remaining = s.remaining := by
  unfold State.resolved; split <;> rfl
@[simp] theorem State.resolved_fault (s : State) (o : Operand) : (s.resolved o).fault = s.fault := by
  unfold State.resolved; split <;> rfl
@[simp] theorem State.resolved_mem (s : State) (o : Operand) : (s.resolved o).mem = s.mem := by
  unfold State.resolved; split <;> rfl
@[simp] theorem State.resolved_cfg (s : State) (o : Operand) : (s.resolved o).cfg = s.cfg := by
  unfold State.resolved; split <;> rfl
@[simp] theorem State.resolved_host (s : State) (o : Operand) : (s.resolved o).host = s.host := by
  unfold State.resolved; split <;> rfl

@[simp] theorem State.resolved_mode (s : State) (o : Operand) : (s.resolved o).mode = o.mode := by
  unfold State.resolved; split <;> rfl

@[simp] theorem State.resolved_addrAbs (s : State) (o : Operand) :
    (s.resolved o).addrAbs = effAddr o s := by
  unfold State.resolved; split <;> rfl

@[simp] theorem State.resolved_addrRel (s : State) (o : Operand) :
    (s.resolved o).addrRel = relOffset o s := by
  unfold State.resolved; split <;> rfl

@[simp] theorem State.resolved_pc (s : State) (o : Operand) :
    (s.resolved o).pc = s.pc + BitVec.ofNat 16 o.mode.operandBytes := by
  unfold State.resolved; split <;> rfl

@[simp] theorem State.resolved_inBus (s : State) (o : Operand) (k : Addr) :
    (s.resolved o).inBus k = s.inBus k := by
  simp [State.inBus]

@[simp] theorem State.resolved_byteAt (s : State) (o : Operand) (k : Addr) :
    (s.resolved o).byteAt k = s.byteAt k := by
  simp [State.byteAt]

/-- The operand read after the mode function: the operand's value lands in `fetched` (R114). -/
theorem fetchOperand_resolved {o : Operand} {s : State} (h : operandInBus o s = true) :
    fetchOperand o (s.resolved o) = .ok ((s.resolved o).setFetched (operandValue o s)) := by
  have bus : s.inBus (effAddr o s) = true →
      memRead (s.resolved o) (s.resolved o).addrAbs = .ok (s.byteAt (effAddr o s)) := fun hb => by
    rw [memRead_of_inBus (by simpa using hb)]
    simp
  cases o with
  | imp => rfl
  | imm v => rfl
  | _ =>
    rw [fetchOperand, bus (by simpa [operandInBus, Operand.mode] using h)]
    rfl

theorem fetchOperand_eq_ok {o : Operand} {s t : State} (h : fetchOperand o s = .ok t) :
    ∃ v, t = s.setFetched v := by
  cases o <;> simp [fetchOperand, bind_eq_ok] at h
  · exact ⟨s.fetched, by simp [h, State.setFetched]⟩
  · exact ⟨_, h.symm⟩
  all_goals
    obtain ⟨v, -, rfl⟩ := h
    exact ⟨v, rfl⟩

theorem writeBack_eq_ok {s t : State} {v : Byte} :
    writeBack s v = .ok t ↔
      (s.mode = .imp ∧ t = s.setA v) ∨
        (s.mode ≠ .imp ∧ s.inBus s.addrAbs = true ∧ t = s.wrote s.addrAbs v) := by
  unfold writeBack
  split
  · rename_i h
    simp only [h, Except.ok.injEq, ne_eq, not_true_eq_false, false_and, or_false, true_and]
    exact eq_comm
  · rename_i h
    simp [h, memWrite_eq_ok]

end Sys2Proof.Machine
end

