-- ==== Sys2Proof/Laws/PerInstr.lean ====
section
/-! SUPPORT. Facts about every instruction as syntax, one lemma per constructor. -/

namespace Sys2Proof.Laws.OpcodeRow

open Sys2Proof

/-- A term is well-formed exactly when R87 gives it an opcode, and the entry of that opcode in R85 names
the same operation and the same mode. -/
def Statement (i : Instr) : Prop :=
  i.wellFormed = i.opcode.isSome ∧
    ∀ c, i.opcode = some c → (descriptor c).mnemonic = i.mnemonic ∧ (descriptor c).mode = i.operand.mode

/-- R88 against R85: the entry of every illegal byte is the no-op in mode IMP. -/
theorem illegal_rows : ∀ c : Byte, illegalOpcodes.contains c = true →
    (descriptor c).mnemonic = .xxx ∧ (descriptor c).mode = .imp := by
  decide +kernel

/-- A cell of R87 agrees with R85. -/
theorem of_cell {i : Instr} {c : Byte} (hw : i.wellFormed = true) (hc : i.opcode = some c)
    (hm : (descriptor c).mnemonic = i.mnemonic) (hd : (descriptor c).mode = i.operand.mode) :
    Statement i := by
  refine ⟨by rw [hw, hc]; rfl, fun c' h => ?_⟩
  obtain rfl : c = c' := Option.some.inj (hc.symm.trans h)
  exact ⟨hm, hd⟩

/-- An empty cell of R87 is no instruction. -/
theorem of_empty {i : Instr} (hw : i.wellFormed = false) (hc : i.opcode = none) : Statement i := by
  refine ⟨by rw [hw, hc]; rfl, fun c' h => ?_⟩
  rw [hc] at h
  cases h

theorem asl (o : Operand) : Statement (.asl o) := by
  cases o <;> first | exact of_cell rfl rfl rfl rfl | exact of_empty rfl rfl

theorem lsr (o : Operand) : Statement (.lsr o) := by
  cases o <;> first | exact of_cell rfl rfl rfl rfl | exact of_empty rfl rfl

theorem rol (o : Operand) : Statement (.rol o) := by
  cases o <;> first | exact of_cell rfl rfl rfl rfl | exact of_empty rfl rfl

theorem ror (o : Operand) : Statement (.ror o) := by
  cases o <;> first | exact of_cell rfl rfl rfl rfl | exact of_empty rfl rfl

theorem inc (o : Operand) : Statement (.inc o) := by
  cases o <;> first | exact of_cell rfl rfl rfl rfl | exact of_empty rfl rfl

theorem dec (o : Operand) : Statement (.dec o) := by
  cases o <;> first | exact of_cell rfl rfl rfl rfl | exact of_empty rfl rfl

theorem inx : Statement .inx := of_cell rfl rfl rfl rfl

theorem iny : Statement .iny := of_cell rfl rfl rfl rfl

theorem dex : Statement .dex := of_cell rfl rfl rfl rfl

theorem dey : Statement .dey := of_cell rfl rfl rfl rfl

theorem adc (o : Operand) : Statement (.adc o) := by
  cases o <;> first | exact of_cell rfl rfl rfl rfl | exact of_empty rfl rfl

theorem sbc (o : Operand) : Statement (.sbc o) := by
  cases o <;> first | exact of_cell rfl rfl rfl rfl | exact of_empty rfl rfl

theorem and (o : Operand) : Statement (.and o) := by
  cases o <;> first | exact of_cell rfl rfl rfl rfl | exact of_empty rfl rfl

theorem ora (o : Operand) : Statement (.ora o) := by
  cases o <;> first | exact of_cell rfl rfl rfl rfl | exact of_empty rfl rfl

theorem eor (o : Operand) : Statement (.eor o) := by
  cases o <;> first | exact of_cell rfl rfl rfl rfl | exact of_empty rfl rfl

theorem cmp (o : Operand) : Statement (.cmp o) := by
  cases o <;> first | exact of_cell rfl rfl rfl rfl | exact of_empty rfl rfl

theorem cpx (o : Operand) : Statement (.cpx o) := by
  cases o <;> first | exact of_cell rfl rfl rfl rfl | exact of_empty rfl rfl

theorem cpy (o : Operand) : Statement (.cpy o) := by
  cases o <;> first | exact of_cell rfl rfl rfl rfl | exact of_empty rfl rfl

theorem bit (o : Operand) : Statement (.bit o) := by
  cases o <;> first | exact of_cell rfl rfl rfl rfl | exact of_empty rfl rfl

theorem jmp (o : Operand) : Statement (.jmp o) := by
  cases o <;> first | exact of_cell rfl rfl rfl rfl | exact of_empty rfl rfl

theorem jsr (a : Addr) : Statement (.jsr a) := of_cell rfl rfl rfl rfl

theorem rts : Statement .rts := of_cell rfl rfl rfl rfl

theorem rti : Statement .rti := of_cell rfl rfl rfl rfl

theorem brk : Statement .brk := of_cell rfl rfl rfl rfl

theorem bpl (d : Byte) : Statement (.bpl d) := of_cell rfl rfl rfl rfl

theorem bmi (d : Byte) : Statement (.bmi d) := of_cell rfl rfl rfl rfl

theorem bvc (d : Byte) : Statement (.bvc d) := of_cell rfl rfl rfl rfl

theorem bvs (d : Byte) : Statement (.bvs d) := of_cell rfl rfl rfl rfl

theorem bcc (d : Byte) : Statement (.bcc d) := of_cell rfl rfl rfl rfl

theorem bcs (d : Byte) : Statement (.bcs d) := of_cell rfl rfl rfl rfl

theorem bne (d : Byte) : Statement (.bne d) := of_cell rfl rfl rfl rfl

theorem beq (d : Byte) : Statement (.beq d) := of_cell rfl rfl rfl rfl

theorem lda (o : Operand) : Statement (.lda o) := by
  cases o <;> first | exact of_cell rfl rfl rfl rfl | exact of_empty rfl rfl

theorem ldx (o : Operand) : Statement (.ldx o) := by
  cases o <;> first | exact of_cell rfl rfl rfl rfl | exact of_empty rfl rfl

theorem ldy (o : Operand) : Statement (.ldy o) := by
  cases o <;> first | exact of_cell rfl rfl rfl rfl | exact of_empty rfl rfl

theorem sta (o : Operand) : Statement (.sta o) := by
  cases o <;> first | exact of_cell rfl rfl rfl rfl | exact of_empty rfl rfl

theorem stx (o : Operand) : Statement (.stx o) := by
  cases o <;> first | exact of_cell rfl rfl rfl rfl | exact of_empty rfl rfl

theorem sty (o : Operand) : Statement (.sty o) := by
  cases o <;> first | exact of_cell rfl rfl rfl rfl | exact of_empty rfl rfl

theorem tax : Statement .tax := of_cell rfl rfl rfl rfl

theorem tay : Statement .tay := of_cell rfl rfl rfl rfl

theorem txa : Statement .txa := of_cell rfl rfl rfl rfl

theorem tya : Statement .tya := of_cell rfl rfl rfl rfl

theorem tsx : Statement .tsx := of_cell rfl rfl rfl rfl

theorem txs : Statement .txs := of_cell rfl rfl rfl rfl

theorem pha : Statement .pha := of_cell rfl rfl rfl rfl

theorem php : Statement .php := of_cell rfl rfl rfl rfl

theorem pla : Statement .pla := of_cell rfl rfl rfl rfl

theorem plp : Statement .plp := of_cell rfl rfl rfl rfl

theorem clc : Statement .clc := of_cell rfl rfl rfl rfl

theorem sec : Statement .sec := of_cell rfl rfl rfl rfl

theorem cli : Statement .cli := of_cell rfl rfl rfl rfl

theorem sei : Statement .sei := of_cell rfl rfl rfl rfl

theorem cld : Statement .cld := of_cell rfl rfl rfl rfl

theorem sed : Statement .sed := of_cell rfl rfl rfl rfl

theorem clv : Statement .clv := of_cell rfl rfl rfl rfl

theorem nop : Statement .nop := of_cell rfl rfl rfl rfl

theorem xxx (c : Byte) : Statement (.xxx c) := by
  cases h : illegalOpcodes.contains c
  · exact of_empty (by simp only [Instr.wellFormed, Instr.illegalByteOk, h, Bool.and_false])
      (by simp only [Instr.opcode, h, Bool.false_eq_true, if_false])
  · obtain ⟨hm, hd⟩ := illegal_rows c h
    exact of_cell (c := c) (by simp only [Instr.wellFormed, Instr.illegalByteOk, h, Bool.and_true]; rfl)
      (by simp only [Instr.opcode, h, if_true]) hm hd

theorem all (i : Instr) : Statement i := by
  cases i with
  | asl o => exact asl o
  | lsr o => exact lsr o
  | rol o => exact rol o
  | ror o => exact ror o
  | inc o => exact inc o
  | dec o => exact dec o
  | inx => exact inx
  | iny => exact iny
  | dex => exact dex
  | dey => exact dey
  | adc o => exact adc o
  | sbc o => exact sbc o
  | and o => exact and o
  | ora o => exact ora o
  | eor o => exact eor o
  | cmp o => exact cmp o
  | cpx o => exact cpx o
  | cpy o => exact cpy o
  | bit o => exact bit o
  | jmp o => exact jmp o
  | jsr a => exact jsr a
  | rts => exact rts
  | rti => exact rti
  | brk => exact brk
  | bpl d => exact bpl d
  | bmi d => exact bmi d
  | bvc d => exact bvc d
  | bvs d => exact bvs d
  | bcc d => exact bcc d
  | bcs d => exact bcs d
  | bne d => exact bne d
  | beq d => exact beq d
  | lda o => exact lda o
  | ldx o => exact ldx o
  | ldy o => exact ldy o
  | sta o => exact sta o
  | stx o => exact stx o
  | sty o => exact sty o
  | tax => exact tax
  | tay => exact tay
  | txa => exact txa
  | tya => exact tya
  | tsx => exact tsx
  | txs => exact txs
  | pha => exact pha
  | php => exact php
  | pla => exact pla
  | plp => exact plp
  | clc => exact clc
  | sec => exact sec
  | cli => exact cli
  | sei => exact sei
  | cld => exact cld
  | sed => exact sed
  | clv => exact clv
  | nop => exact nop
  | xxx c => exact xxx c

end Sys2Proof.Laws.OpcodeRow
end

