-- ==== Sys2Proof/Laws/Pulse.lean ====
section
/-! SUPPORT. What one executing pulse does: the form of every next state (`pulse_eq_next`), of every fault
(`pulse_eq_fault`) and of the refusal, what the shared operations answer, and the fields of the states
they build. -/

namespace Sys2Proof.Machine

open Sys2Proof

/-! ## The fields of the built states -/

@[simp] theorem State.beginPulse_a (s : State) (c : Byte) : (s.beginPulse c).a = s.a := rfl
@[simp] theorem State.beginPulse_x (s : State) (c : Byte) : (s.beginPulse c).x = s.x := rfl
@[simp] theorem State.beginPulse_y (s : State) (c : Byte) : (s.beginPulse c).y = s.y := rfl
@[simp] theorem State.beginPulse_sp (s : State) (c : Byte) : (s.beginPulse c).sp = s.sp := rfl
@[simp] theorem State.beginPulse_pc (s : State) (c : Byte) : (s.beginPulse c).pc = s.pc + 1 := rfl
@[simp] theorem State.beginPulse_p (s : State) (c : Byte) : (s.beginPulse c).p = { s.p with u := true } := rfl
@[simp] theorem State.beginPulse_opcode (s : State) (c : Byte) : (s.beginPulse c).opcode = c := rfl
@[simp] theorem State.beginPulse_fetched (s : State) (c : Byte) : (s.beginPulse c).fetched = s.fetched := rfl
@[simp] theorem State.beginPulse_mode (s : State) (c : Byte) : (s.beginPulse c).mode = s.mode := rfl
@[simp] theorem State.beginPulse_addrAbs (s : State) (c : Byte) : (s.beginPulse c).addrAbs = s.addrAbs := rfl
@[simp] theorem State.beginPulse_addrRel (s : State) (c : Byte) : (s.beginPulse c).addrRel = s.addrRel := rfl
@[simp] theorem State.beginPulse_remaining (s : State) (c : Byte) : (s.beginPulse c).remaining = s.remaining := rfl
@[simp] theorem State.beginPulse_fault (s : State) (c : Byte) : (s.beginPulse c).fault = s.fault := rfl
@[simp] theorem State.beginPulse_mem (s : State) (c : Byte) : (s.beginPulse c).mem = s.mem := rfl
@[simp] theorem State.beginPulse_cfg (s : State) (c : Byte) : (s.beginPulse c).cfg = s.cfg := rfl
@[simp] theorem State.beginPulse_host (s : State) (c : Byte) : (s.beginPulse c).host = s.host := rfl

@[simp] theorem State.endPulse_a (s : State) (n : Nat) : (s.endPulse n).a = s.a := rfl
@[simp] theorem State.endPulse_x (s : State) (n : Nat) : (s.endPulse n).x = s.x := rfl
@[simp] theorem State.endPulse_y (s : State) (n : Nat) : (s.endPulse n).y = s.y := rfl
@[simp] theorem State.endPulse_sp (s : State) (n : Nat) : (s.endPulse n).sp = s.sp := rfl
@[simp] theorem State.endPulse_pc (s : State) (n : Nat) : (s.endPulse n).pc = s.pc := rfl
@[simp] theorem State.endPulse_p (s : State) (n : Nat) : (s.endPulse n).p = { s.p with u := true } := rfl
@[simp] theorem State.endPulse_opcode (s : State) (n : Nat) : (s.endPulse n).opcode = s.opcode := rfl
@[simp] theorem State.endPulse_fetched (s : State) (n : Nat) : (s.endPulse n).fetched = s.fetched := rfl
@[simp] theorem State.endPulse_mode (s : State) (n : Nat) : (s.endPulse n).mode = s.mode := rfl
@[simp] theorem State.endPulse_addrAbs (s : State) (n : Nat) : (s.endPulse n).addrAbs = s.addrAbs := rfl
@[simp] theorem State.endPulse_addrRel (s : State) (n : Nat) : (s.endPulse n).addrRel = s.addrRel := rfl
@[simp] theorem State.endPulse_remaining (s : State) (n : Nat) : (s.endPulse n).remaining = n - 1 := rfl
@[simp] theorem State.endPulse_fault (s : State) (n : Nat) : (s.endPulse n).fault = s.fault := rfl
@[simp] theorem State.endPulse_mem (s : State) (n : Nat) : (s.endPulse n).mem = s.mem := rfl
@[simp] theorem State.endPulse_cfg (s : State) (n : Nat) : (s.endPulse n).cfg = s.cfg := rfl
@[simp] theorem State.endPulse_host (s : State) (n : Nat) : (s.endPulse n).host = s.host := rfl

@[simp] theorem State.busyPulse_a (s : State) : s.busyPulse.a = s.a := rfl
@[simp] theorem State.busyPulse_x (s : State) : s.busyPulse.x = s.x := rfl
@[simp] theorem State.busyPulse_y (s : State) : s.busyPulse.y = s.y := rfl
@[simp] theorem State.busyPulse_sp (s : State) : s.busyPulse.sp = s.sp := rfl
@[simp] theorem State.busyPulse_pc (s : State) : s.busyPulse.pc = s.pc := rfl
@[simp] theorem State.busyPulse_p (s : State) : s.busyPulse.p = s.p := rfl
@[simp] theorem State.busyPulse_opcode (s : State) : s.busyPulse.opcode = s.opcode := rfl
@[simp] theorem State.busyPulse_fetched (s : State) : s.busyPulse.fetched = s.fetched := rfl
@[simp] theorem State.busyPulse_mode (s : State) : s.busyPulse.mode = s.mode := rfl
@[simp] theorem State.busyPulse_addrAbs (s : State) : s.busyPulse.addrAbs = s.addrAbs := rfl
@[simp] theorem State.busyPulse_addrRel (s : State) : s.busyPulse.addrRel = s.addrRel := rfl
@[simp] theorem State.busyPulse_remaining (s : State) : s.busyPulse.remaining = s.remaining - 1 := rfl
@[simp] theorem State.busyPulse_fault (s : State) : s.busyPulse.fault = s.fault := rfl
@[simp] theorem State.busyPulse_mem (s : State) : s.busyPulse.mem = s.mem := rfl
@[simp] theorem State.busyPulse_cfg (s : State) : s.busyPulse.cfg = s.cfg := rfl
@[simp] theorem State.busyPulse_host (s : State) : s.busyPulse.host = s.host := rfl

@[simp] theorem State.entered_a (s : State) (b : Bool) : (s.entered b).a = s.a := by
  simp [State.entered]
@[simp] theorem State.entered_x (s : State) (b : Bool) : (s.entered b).x = s.x := by
  simp [State.entered]
@[simp] theorem State.entered_y (s : State) (b : Bool) : (s.entered b).y = s.y := by
  simp [State.entered]
@[simp] theorem State.entered_sp (s : State) (b : Bool) : (s.entered b).sp = s.sp - 1 - 1 - 1 := by
  simp [State.entered]
@[simp] theorem State.entered_pc (s : State) (b : Bool) : (s.entered b).pc = s.pc := by
  simp [State.entered]
@[simp] theorem State.entered_p (s : State) (b : Bool) : (s.entered b).p = { s.p with u := true, i := true } := by
  simp [State.entered]
@[simp] theorem State.entered_opcode (s : State) (b : Bool) : (s.entered b).opcode = s.opcode := by
  simp [State.entered]
@[simp] theorem State.entered_fetched (s : State) (b : Bool) : (s.entered b).fetched = s.fetched := by
  simp [State.entered]
@[simp] theorem State.entered_mode (s : State) (b : Bool) : (s.entered b).mode = s.mode := by
  simp [State.entered]
@[simp] theorem State.entered_addrAbs (s : State) (b : Bool) : (s.entered b).addrAbs = s.addrAbs := by
  simp [State.entered]
@[simp] theorem State.entered_addrRel (s : State) (b : Bool) : (s.entered b).addrRel = s.addrRel := by
  simp [State.entered]
@[simp] theorem State.entered_remaining (s : State) (b : Bool) : (s.entered b).remaining = s.remaining := by
  simp [State.entered]
@[simp] theorem State.entered_fault (s : State) (b : Bool) : (s.entered b).fault = s.fault := by
  simp [State.entered]
@[simp] theorem State.entered_cfg (s : State) (b : Bool) : (s.entered b).cfg = s.cfg := by
  simp [State.entered]
@[simp] theorem State.entered_host (s : State) (b : Bool) : (s.entered b).host = s.host := by
  simp [State.entered]

theorem State.entered_mem (s : State) (b : Bool) :
    (s.entered b).mem =
      ((s.mem.write (stackAddr s.sp).toNat (hi s.pc)).write (stackAddr (s.sp - 1)).toNat (lo s.pc)).write
        (stackAddr (s.sp - 1 - 1)).toNat (s.p.pushed b) := rfl

@[simp] theorem State.returned_a (s : State) : s.returned.a = s.a := by
  simp [State.returned]
@[simp] theorem State.returned_x (s : State) : s.returned.x = s.x := by
  simp [State.returned]
@[simp] theorem State.returned_y (s : State) : s.returned.y = s.y := by
  simp [State.returned]
@[simp] theorem State.returned_sp (s : State) : s.returned.sp = s.sp + 1 + 1 + 1 := by
  simp [State.returned]
@[simp] theorem State.returned_pc (s : State) : s.returned.pc = cat (s.byteAt (stackAddr (s.sp + 1 + 1 + 1))) (s.byteAt (stackAddr (s.sp + 1 + 1))) := by
  simp [State.returned]
@[simp] theorem State.returned_p (s : State) : s.returned.p = Status.ofPulled (s.byteAt (stackAddr (s.sp + 1))) := by
  simp [State.returned]
@[simp] theorem State.returned_opcode (s : State) : s.returned.opcode = s.opcode := by
  simp [State.returned]
@[simp] theorem State.returned_fetched (s : State) : s.returned.fetched = s.fetched := by
  simp [State.returned]
@[simp] theorem State.returned_mode (s : State) : s.returned.mode = s.mode := by
  simp [State.returned]
@[simp] theorem State.returned_addrAbs (s : State) : s.returned.addrAbs = s.addrAbs := by
  simp [State.returned]
@[simp] theorem State.returned_addrRel (s : State) : s.returned.addrRel = s.addrRel := by
  simp [State.returned]
@[simp] theorem State.returned_remaining (s : State) : s.returned.remaining = s.remaining := by
  simp [State.returned]
@[simp] theorem State.returned_fault (s : State) : s.returned.fault = s.fault := by
  simp [State.returned]
@[simp] theorem State.returned_mem (s : State) : s.returned.mem = s.mem := by
  simp [State.returned]
@[simp] theorem State.returned_cfg (s : State) : s.returned.cfg = s.cfg := by
  simp [State.returned]
@[simp] theorem State.returned_host (s : State) : s.returned.host = s.host := by
  simp [State.returned]

@[simp] theorem State.putA_a (s : State) (r : Result) : (s.putA r).a = r.value := rfl
@[simp] theorem State.putA_x (s : State) (r : Result) : (s.putA r).x = s.x := rfl
@[simp] theorem State.putA_y (s : State) (r : Result) : (s.putA r).y = s.y := rfl
@[simp] theorem State.putA_sp (s : State) (r : Result) : (s.putA r).sp = s.sp := rfl
@[simp] theorem State.putA_pc (s : State) (r : Result) : (s.putA r).pc = s.pc := rfl
@[simp] theorem State.putA_p (s : State) (r : Result) : (s.putA r).p = r.status := rfl
@[simp] theorem State.putA_opcode (s : State) (r : Result) : (s.putA r).opcode = s.opcode := rfl
@[simp] theorem State.putA_fetched (s : State) (r : Result) : (s.putA r).fetched = s.fetched := rfl
@[simp] theorem State.putA_mode (s : State) (r : Result) : (s.putA r).mode = s.mode := rfl
@[simp] theorem State.putA_addrAbs (s : State) (r : Result) : (s.putA r).addrAbs = s.addrAbs := rfl
@[simp] theorem State.putA_addrRel (s : State) (r : Result) : (s.putA r).addrRel = s.addrRel := rfl
@[simp] theorem State.putA_remaining (s : State) (r : Result) : (s.putA r).remaining = s.remaining := rfl
@[simp] theorem State.putA_fault (s : State) (r : Result) : (s.putA r).fault = s.fault := rfl
@[simp] theorem State.putA_mem (s : State) (r : Result) : (s.putA r).mem = s.mem := rfl
@[simp] theorem State.putA_cfg (s : State) (r : Result) : (s.putA r).cfg = s.cfg := rfl
@[simp] theorem State.putA_host (s : State) (r : Result) : (s.putA r).host = s.host := rfl

@[simp] theorem State.putX_a (s : State) (r : Result) : (s.putX r).a = s.a := rfl
@[simp] theorem State.putX_x (s : State) (r : Result) : (s.putX r).x = r.value := rfl
@[simp] theorem State.putX_y (s : State) (r : Result) : (s.putX r).y = s.y := rfl
@[simp] theorem State.putX_sp (s : State) (r : Result) : (s.putX r).sp = s.sp := rfl
@[simp] theorem State.putX_pc (s : State) (r : Result) : (s.putX r).pc = s.pc := rfl
@[simp] theorem State.putX_p (s : State) (r : Result) : (s.putX r).p = r.status := rfl
@[simp] theorem State.putX_opcode (s : State) (r : Result) : (s.putX r).opcode = s.opcode := rfl
@[simp] theorem State.putX_fetched (s : State) (r : Result) : (s.putX r).fetched = s.fetched := rfl
@[simp] theorem State.putX_mode (s : State) (r : Result) : (s.putX r).mode = s.mode := rfl
@[simp] theorem State.putX_addrAbs (s : State) (r : Result) : (s.putX r).addrAbs = s.addrAbs := rfl
@[simp] theorem State.putX_addrRel (s : State) (r : Result) : (s.putX r).addrRel = s.addrRel := rfl
@[simp] theorem State.putX_remaining (s : State) (r : Result) : (s.putX r).remaining = s.remaining := rfl
@[simp] theorem State.putX_fault (s : State) (r : Result) : (s.putX r).fault = s.fault := rfl
@[simp] theorem State.putX_mem (s : State) (r : Result) : (s.putX r).mem = s.mem := rfl
@[simp] theorem State.putX_cfg (s : State) (r : Result) : (s.putX r).cfg = s.cfg := rfl
@[simp] theorem State.putX_host (s : State) (r : Result) : (s.putX r).host = s.host := rfl

@[simp] theorem State.putY_a (s : State) (r : Result) : (s.putY r).a = s.a := rfl
@[simp] theorem State.putY_x (s : State) (r : Result) : (s.putY r).x = s.x := rfl
@[simp] theorem State.putY_y (s : State) (r : Result) : (s.putY r).y = r.value := rfl
@[simp] theorem State.putY_sp (s : State) (r : Result) : (s.putY r).sp = s.sp := rfl
@[simp] theorem State.putY_pc (s : State) (r : Result) : (s.putY r).pc = s.pc := rfl
@[simp] theorem State.putY_p (s : State) (r : Result) : (s.putY r).p = r.status := rfl
@[simp] theorem State.putY_opcode (s : State) (r : Result) : (s.putY r).opcode = s.opcode := rfl
@[simp] theorem State.putY_fetched (s : State) (r : Result) : (s.putY r).fetched = s.fetched := rfl
@[simp] theorem State.putY_mode (s : State) (r : Result) : (s.putY r).mode = s.mode := rfl
@[simp] theorem State.putY_addrAbs (s : State) (r : Result) : (s.putY r).addrAbs = s.addrAbs := rfl
@[simp] theorem State.putY_addrRel (s : State) (r : Result) : (s.putY r).addrRel = s.addrRel := rfl
@[simp] theorem State.putY_remaining (s : State) (r : Result) : (s.putY r).remaining = s.remaining := rfl
@[simp] theorem State.putY_fault (s : State) (r : Result) : (s.putY r).fault = s.fault := rfl
@[simp] theorem State.putY_mem (s : State) (r : Result) : (s.putY r).mem = s.mem := rfl
@[simp] theorem State.putY_cfg (s : State) (r : Result) : (s.putY r).cfg = s.cfg := rfl
@[simp] theorem State.putY_host (s : State) (r : Result) : (s.putY r).host = s.host := rfl

@[simp] theorem State.beginPulse_inBus (s : State) (c : Byte) (k : Addr) :
    (s.beginPulse c).inBus k = s.inBus k := rfl

@[simp] theorem State.beginPulse_byteAt (s : State) (c : Byte) (k : Addr) :
    (s.beginPulse c).byteAt k = s.byteAt k := rfl

/-! ## A mode reads X, Y and the bus only -/

@[simp] theorem pointerReads_beginPulse (o : Operand) (s : State) (c : Byte) :
    pointerReads o (s.beginPulse c) = pointerReads o s := by
  cases o <;> rfl

@[simp] theorem pointersInBus_beginPulse (o : Operand) (s : State) (c : Byte) :
    pointersInBus o (s.beginPulse c) = pointersInBus o s := by
  cases o <;> rfl

@[simp] theorem pageCrossed_beginPulse (o : Operand) (s : State) (c : Byte) :
    pageCrossed o (s.beginPulse c) = pageCrossed o s := by
  cases o <;> rfl

@[simp] theorem operandValue_beginPulse (o : Operand) (s : State) (c : Byte) :
    operandValue o (s.beginPulse c) = operandValue o s := by
  cases o <;> rfl

@[simp] theorem operandInBus_beginPulse (o : Operand) (s : State) (c : Byte) :
    operandInBus o (s.beginPulse c) = operandInBus o s := by
  cases o <;> rfl

theorem effAddr_beginPulse {o : Operand} (h : o.mode ≠ .imm) (s : State) (c : Byte) :
    effAddr o (s.beginPulse c) = effAddr o s := by
  cases o <;> first | rfl | exact absurd rfl h

/-- Only IMP leaves `fetched` to A; the value it reads is A. -/
theorem operandValue_of_bus {o : Operand} (h : o.mode ≠ .imp) (h' : o.mode ≠ .imm) (s : State) :
    operandValue o s = s.byteAt (effAddr o s) := by
  cases o <;> first | rfl | exact absurd rfl h | exact absurd rfl h'

theorem operandInBus_of_bus {o : Operand} (h : o.mode ≠ .imp) (h' : o.mode ≠ .imm) (s : State) :
    operandInBus o s = s.inBus (effAddr o s) := by
  simp [operandInBus, h, h']

/-- Only IND, IZX and IZY read a pointer. -/
theorem pointersInBus_of_mode {o : Operand} (h : o.mode ≠ .ind) (h1 : o.mode ≠ .izx) (h2 : o.mode ≠ .izy)
    (s : State) : pointersInBus o s = true := by
  cases o <;> first | rfl | exact absurd rfl h | exact absurd rfl h1 | exact absurd rfl h2

/-- R113: only ABX, ABY and IZY cross a page. -/
theorem pageCrossed_of_mode {o : Operand} (h : o.mode ≠ .abx) (h1 : o.mode ≠ .aby) (h2 : o.mode ≠ .izy)
    (s : State) : pageCrossed o s = false := by
  cases o <;> first | rfl | exact absurd rfl h | exact absurd rfl h1 | exact absurd rfl h2

/-! ## The executing pulse -/

/-- The cost `pulse` charges (R134). -/
def pulseCost (i : Instr) (s : State) (r : Done) : Nat :=
  i.baseCycles + r.bx + (pageCrossed i.operand s && r.ox).toNat

/-- The state the operation of `i` starts from. -/
def State.atOperation (s : State) (i : Instr) (c : Byte) : State :=
  (s.beginPulse c).resolved i.operand

theorem baseCycles_of_opcode {i : Instr} {c : Byte} (h : i.opcode = some c) :
    i.baseCycles = (descriptor c).cycles := by
  simp [Instr.baseCycles, h]

/-- Every next state of a pulse: the term has an opcode, the mode's pointer bytes are on the bus, and the
operation answers the state the pulse ends. -/
theorem pulse_eq_next {i : Instr} {s t : State} {op : State → Except Fault Done} :
    pulse i s op = .next t ↔
      ∃ c r, i.opcode = some c ∧ pointersInBus i.operand s = true ∧
        op (s.atOperation i c) = .ok r ∧ t = r.state.endPulse (pulseCost i s r) := by
  unfold pulse
  cases h : i.opcode with
  | none => simp
  | some c =>
    simp only [outcome_eq_next, bind_eq_ok, Prod.exists, resolve_eq_ok, pointersInBus_beginPulse,
      pageCrossed_beginPulse, pure_eq_ok, Except.ok.injEq, Option.some.injEq, pulseCost,
      baseCycles_of_opcode h]
    constructor
    · rintro ⟨_, _, ⟨hp, rfl, rfl⟩, r, hr, rfl⟩
      exact ⟨c, r, rfl, hp, hr, rfl⟩
    · rintro ⟨_, r, rfl, hp, hr, rfl⟩
      exact ⟨_, _, ⟨hp, rfl, rfl⟩, r, hr, rfl⟩

/-- A pulse whose operation succeeds. -/
theorem pulse_of_ok {i : Instr} {s : State} {op : State → Except Fault Done} {c : Byte} {r : Done}
    (hc : i.opcode = some c) (hp : pointersInBus i.operand s = true)
    (hr : op (s.atOperation i c) = .ok r) :
    pulse i s op = .next (r.state.endPulse (pulseCost i s r)) :=
  pulse_eq_next.2 ⟨c, r, hc, hp, hr, rfl⟩

theorem checkReads_eq_error {s : State} {l : List Addr} {f : Fault} (h : checkReads s l = .error f) :
    ∃ addr ∈ l, s.inBus addr = false ∧ f = .addressingFault addr := by
  induction l with
  | nil => simp [checkReads] at h
  | cons addr l ih =>
    simp only [checkReads, bind_eq_error, memRead_eq_error] at h
    rcases h with ⟨hb, rfl⟩ | ⟨_, -, h⟩
    · exact ⟨addr, List.mem_cons_self, hb, rfl⟩
    · obtain ⟨k, hk, hr⟩ := ih h
      exact ⟨k, List.mem_cons_of_mem _ hk, hr⟩

/-- Every fault of a pulse: a pointer byte outside the bus, or the operation's own fault. -/
theorem pulse_eq_fault {i : Instr} {s : State} {op : State → Except Fault Done} {f : Fault}
    (h : pulse i s op = .fault f) :
    (∃ addr, s.inBus addr = false ∧ f = .addressingFault addr) ∨
      ∃ c, i.opcode = some c ∧ op (s.atOperation i c) = .error f := by
  unfold pulse at h
  cases hc : i.opcode with
  | none => simp [hc] at h
  | some c =>
    simp only [hc, outcome_eq_fault, bind_eq_error, resolve, pure_eq_ok, bind_eq_ok, Except.ok.injEq,
      reduceCtorEq, and_false, exists_false, or_false] at h
    rcases h with h | ⟨⟨t, mx⟩, ⟨_, h, hm⟩, h'⟩
    · obtain ⟨addr, -, hb, rfl⟩ := checkReads_eq_error h
      exact .inl ⟨addr, by simpa using hb, rfl⟩
    · cases hm
      exact .inr ⟨c, rfl, h'⟩

/-- A pulse is refused exactly when the term has no opcode. -/
theorem pulse_eq_refused {i : Instr} {s : State} {op : State → Except Fault Done} {r : Refusal} :
    pulse i s op = .refused r ↔ i.opcode = none ∧ r = .noEncoding := by
  unfold pulse
  cases h : i.opcode with
  | none => simp [eq_comm]
  | some c =>
    simp only [reduceCtorEq, false_and, iff_false]
    intro h'
    revert h'
    unfold outcome
    split <;> simp

/-! ## The fields an operation starts from -/

@[simp] theorem State.atOperation_a (s : State) (i : Instr) (c : Byte) :
    (s.atOperation i c).a = s.a := by
  simp [State.atOperation]
@[simp] theorem State.atOperation_x (s : State) (i : Instr) (c : Byte) :
    (s.atOperation i c).x = s.x := by
  simp [State.atOperation]
@[simp] theorem State.atOperation_y (s : State) (i : Instr) (c : Byte) :
    (s.atOperation i c).y = s.y := by
  simp [State.atOperation]
@[simp] theorem State.atOperation_sp (s : State) (i : Instr) (c : Byte) :
    (s.atOperation i c).sp = s.sp := by
  simp [State.atOperation]
@[simp] theorem State.atOperation_p (s : State) (i : Instr) (c : Byte) :
    (s.atOperation i c).p = { s.p with u := true } := by
  simp [State.atOperation]
@[simp] theorem State.atOperation_opcode (s : State) (i : Instr) (c : Byte) :
    (s.atOperation i c).opcode = c := by
  simp [State.atOperation]
@[simp] theorem State.atOperation_remaining (s : State) (i : Instr) (c : Byte) :
    (s.atOperation i c).remaining = s.remaining := by
  simp [State.atOperation]
@[simp] theorem State.atOperation_fault (s : State) (i : Instr) (c : Byte) :
    (s.atOperation i c).fault = s.fault := by
  simp [State.atOperation]
@[simp] theorem State.atOperation_mem (s : State) (i : Instr) (c : Byte) :
    (s.atOperation i c).mem = s.mem := by
  simp [State.atOperation]
@[simp] theorem State.atOperation_cfg (s : State) (i : Instr) (c : Byte) :
    (s.atOperation i c).cfg = s.cfg := by
  simp [State.atOperation]
@[simp] theorem State.atOperation_host (s : State) (i : Instr) (c : Byte) :
    (s.atOperation i c).host = s.host := by
  simp [State.atOperation]

theorem Operand.bytes_length (o : Operand) : o.bytes.length = o.mode.operandBytes := by
  cases o <;> rfl

/-- An operation starts with PC past the whole instruction (R132). -/
@[simp] theorem State.atOperation_pc (s : State) (i : Instr) (c : Byte) :
    (s.atOperation i c).pc = s.pc + BitVec.ofNat 16 i.length := by
  rw [State.atOperation, State.resolved_pc, State.beginPulse_pc, Instr.length, Operand.bytes_length,
    add_assoc, BitVec.ofNat_add]
  rfl

@[simp] theorem State.atOperation_mode (s : State) (i : Instr) (c : Byte) :
    (s.atOperation i c).mode = i.operand.mode := by
  simp [State.atOperation]

@[simp] theorem State.atOperation_addrRel (s : State) (i : Instr) (c : Byte) :
    (s.atOperation i c).addrRel = relOffset i.operand (s.beginPulse c) := by
  simp [State.atOperation]

theorem State.atOperation_addrAbs (s : State) (i : Instr) (c : Byte) (h : i.operand.mode ≠ .imm) :
    (s.atOperation i c).addrAbs = effAddr i.operand s := by
  simp [State.atOperation, effAddr_beginPulse h]

@[simp] theorem State.atOperation_inBus (s : State) (i : Instr) (c : Byte) (k : Addr) :
    (s.atOperation i c).inBus k = s.inBus k := by
  simp [State.inBus]

@[simp] theorem State.atOperation_byteAt (s : State) (i : Instr) (c : Byte) (k : Addr) :
    (s.atOperation i c).byteAt k = s.byteAt k := by
  simp [State.byteAt]

/-! ## The shared operations -/

theorem fetchOperand_atOperation {i : Instr} {s : State} {c : Byte}
    (h : operandInBus i.operand s = true) :
    fetchOperand i.operand (s.atOperation i c) =
      .ok ((s.atOperation i c).setFetched (operandValue i.operand s)) := by
  have h' : operandInBus i.operand (s.beginPulse c) = true := by simpa using h
  rw [State.atOperation, fetchOperand_resolved h', operandValue_beginPulse]

theorem readOp_eq_ok {o : Operand} {ox : Bool} {f : State → Byte → State} {s : State} {r : Done}
    (h : readOp o ox f s = .ok r) : ∃ v, r = ⟨f (s.setFetched v) v, ox, 0⟩ := by
  simp only [readOp, bind_eq_ok] at h
  obtain ⟨s1, h1, h2⟩ := h
  obtain ⟨v, rfl⟩ := fetchOperand_eq_ok h1
  cases h2
  exact ⟨v, rfl⟩

theorem modifyOp_eq_ok {o : Operand} {f : Status → Byte → Result} {s : State} {r : Done}
    (h : modifyOp o f s = .ok r) :
    ∃ v, (s.mode = .imp ∧
        r = ⟨((s.setFetched v).setP (f s.p v).status).setA (f s.p v).value, false, 0⟩) ∨
      (s.mode ≠ .imp ∧ s.inBus s.addrAbs = true ∧
        r = ⟨((s.setFetched v).setP (f s.p v).status).wrote s.addrAbs (f s.p v).value, false, 0⟩) := by
  simp only [modifyOp, bind_eq_ok] at h
  obtain ⟨s1, h1, s2, h2, h3⟩ := h
  obtain ⟨v, rfl⟩ := fetchOperand_eq_ok h1
  cases h3
  refine ⟨v, (writeBack_eq_ok.1 h2).imp ?_ ?_⟩
  · rintro ⟨hm, rfl⟩
    exact ⟨hm, rfl⟩
  · rintro ⟨hm, hb, rfl⟩
    exact ⟨hm, hb, rfl⟩

theorem storeOp_eq_ok {v : State → Byte} {s : State} {r : Done} :
    storeOp v s = .ok r ↔ s.inBus s.addrAbs = true ∧ r = ⟨s.wrote s.addrAbs (v s), false, 0⟩ := by
  simp only [storeOp, bind_eq_ok, memWrite_eq_ok]
  constructor
  · rintro ⟨_, ⟨h, rfl⟩, h'⟩
    cases h'
    exact ⟨h, rfl⟩
  · rintro ⟨h, rfl⟩
    exact ⟨_, ⟨h, rfl⟩, rfl⟩

/-- A branch moves PC and nothing else (R225). -/
theorem branchOp_eq_ok {cond : Status → Bool} {s : State} {r : Done} (h : branchOp cond s = .ok r) :
    ∃ pc, r.state = s.setPc pc ∧ r.ox = false ∧ r.bx ≤ 2 := by
  unfold branchOp at h
  split at h
  · cases h
    refine ⟨_, rfl, rfl, ?_⟩
    cases hi (s.pc + s.addrRel) != hi s.pc <;> simp
  · cases h
    exact ⟨s.pc, rfl, rfl, by simp⟩

/-- ADC and SBC move A and P and nothing else (R190 to R193). -/
theorem addOrSubtract_eq_ok {o : Operand} {bin dec : Status → Byte → Byte → Result} {s : State} {r : Done}
    (h : addOrSubtract o bin dec s = .ok r) :
    ∃ v, r = ⟨(s.setFetched v).putA (bin s.p s.a v), true, 0⟩ ∨
      r = ⟨(s.setFetched v).putA (dec s.p s.a v), true, 0⟩ := by
  simp only [addOrSubtract, bind_eq_ok] at h
  obtain ⟨s1, h1, h2⟩ := h
  obtain ⟨v, rfl⟩ := fetchOperand_eq_ok h1
  refine ⟨v, ?_⟩
  split at h2
  · split at h2
    · cases h2
    · cases h2
      exact .inr rfl
    · cases h2
      exact .inl rfl
  · cases h2
    exact .inl rfl

/-! ## What the flag computations leave of the status -/

@[simp] theorem Status.setZN_c (p : Status) (x : Byte) : (p.setZN x).c = p.c := rfl
@[simp] theorem Status.setZN_i (p : Status) (x : Byte) : (p.setZN x).i = p.i := rfl
@[simp] theorem Status.setZN_d (p : Status) (x : Byte) : (p.setZN x).d = p.d := rfl
@[simp] theorem Status.setZN_b (p : Status) (x : Byte) : (p.setZN x).b = p.b := rfl
@[simp] theorem Status.setZN_u (p : Status) (x : Byte) : (p.setZN x).u = p.u := rfl
@[simp] theorem Status.setZN_v (p : Status) (x : Byte) : (p.setZN x).v = p.v := rfl

@[simp] theorem addBinary_i (p : Status) (a m : Byte) : (addBinary p a m).status.i = p.i := rfl
@[simp] theorem addBinary_d (p : Status) (a m : Byte) : (addBinary p a m).status.d = p.d := rfl
@[simp] theorem addBinary_b (p : Status) (a m : Byte) : (addBinary p a m).status.b = p.b := rfl
@[simp] theorem addBinary_u (p : Status) (a m : Byte) : (addBinary p a m).status.u = p.u := rfl
@[simp] theorem addNmos_i (p : Status) (a m : Byte) : (addNmos p a m).status.i = p.i := rfl
@[simp] theorem addNmos_d (p : Status) (a m : Byte) : (addNmos p a m).status.d = p.d := rfl
@[simp] theorem addNmos_b (p : Status) (a m : Byte) : (addNmos p a m).status.b = p.b := rfl
@[simp] theorem addNmos_u (p : Status) (a m : Byte) : (addNmos p a m).status.u = p.u := rfl
@[simp] theorem subNmos_i (p : Status) (a m : Byte) : (subNmos p a m).status.i = p.i := rfl
@[simp] theorem subNmos_d (p : Status) (a m : Byte) : (subNmos p a m).status.d = p.d := rfl
@[simp] theorem subNmos_b (p : Status) (a m : Byte) : (subNmos p a m).status.b = p.b := rfl
@[simp] theorem subNmos_u (p : Status) (a m : Byte) : (subNmos p a m).status.u = p.u := rfl
@[simp] theorem compareBytes_i (p : Status) (r m : Byte) : (compareBytes p r m).i = p.i := rfl
@[simp] theorem compareBytes_d (p : Status) (r m : Byte) : (compareBytes p r m).d = p.d := rfl
@[simp] theorem compareBytes_b (p : Status) (r m : Byte) : (compareBytes p r m).b = p.b := rfl
@[simp] theorem compareBytes_u (p : Status) (r m : Byte) : (compareBytes p r m).u = p.u := rfl
@[simp] theorem compareBytes_v (p : Status) (r m : Byte) : (compareBytes p r m).v = p.v := rfl
@[simp] theorem bitTest_c (p : Status) (a m : Byte) : (bitTest p a m).c = p.c := rfl
@[simp] theorem bitTest_i (p : Status) (a m : Byte) : (bitTest p a m).i = p.i := rfl
@[simp] theorem bitTest_d (p : Status) (a m : Byte) : (bitTest p a m).d = p.d := rfl
@[simp] theorem bitTest_b (p : Status) (a m : Byte) : (bitTest p a m).b = p.b := rfl
@[simp] theorem bitTest_u (p : Status) (a m : Byte) : (bitTest p a m).u = p.u := rfl
@[simp] theorem withZN_c (p : Status) (m : Byte) : (withZN p m).status.c = p.c := rfl
@[simp] theorem withZN_i (p : Status) (m : Byte) : (withZN p m).status.i = p.i := rfl
@[simp] theorem withZN_d (p : Status) (m : Byte) : (withZN p m).status.d = p.d := rfl
@[simp] theorem withZN_b (p : Status) (m : Byte) : (withZN p m).status.b = p.b := rfl
@[simp] theorem withZN_u (p : Status) (m : Byte) : (withZN p m).status.u = p.u := rfl
@[simp] theorem withZN_v (p : Status) (m : Byte) : (withZN p m).status.v = p.v := rfl
@[simp] theorem increment_c (p : Status) (m : Byte) : (increment p m).status.c = p.c := rfl
@[simp] theorem increment_i (p : Status) (m : Byte) : (increment p m).status.i = p.i := rfl
@[simp] theorem increment_d (p : Status) (m : Byte) : (increment p m).status.d = p.d := rfl
@[simp] theorem increment_b (p : Status) (m : Byte) : (increment p m).status.b = p.b := rfl
@[simp] theorem increment_u (p : Status) (m : Byte) : (increment p m).status.u = p.u := rfl
@[simp] theorem increment_v (p : Status) (m : Byte) : (increment p m).status.v = p.v := rfl
@[simp] theorem decrement_c (p : Status) (m : Byte) : (decrement p m).status.c = p.c := rfl
@[simp] theorem decrement_i (p : Status) (m : Byte) : (decrement p m).status.i = p.i := rfl
@[simp] theorem decrement_d (p : Status) (m : Byte) : (decrement p m).status.d = p.d := rfl
@[simp] theorem decrement_b (p : Status) (m : Byte) : (decrement p m).status.b = p.b := rfl
@[simp] theorem decrement_u (p : Status) (m : Byte) : (decrement p m).status.u = p.u := rfl
@[simp] theorem decrement_v (p : Status) (m : Byte) : (decrement p m).status.v = p.v := rfl
@[simp] theorem shiftLeft_i (p : Status) (m : Byte) : (shiftLeft p m).status.i = p.i := rfl
@[simp] theorem shiftLeft_d (p : Status) (m : Byte) : (shiftLeft p m).status.d = p.d := rfl
@[simp] theorem shiftLeft_b (p : Status) (m : Byte) : (shiftLeft p m).status.b = p.b := rfl
@[simp] theorem shiftLeft_u (p : Status) (m : Byte) : (shiftLeft p m).status.u = p.u := rfl
@[simp] theorem shiftLeft_v (p : Status) (m : Byte) : (shiftLeft p m).status.v = p.v := rfl
@[simp] theorem shiftRight_i (p : Status) (m : Byte) : (shiftRight p m).status.i = p.i := rfl
@[simp] theorem shiftRight_d (p : Status) (m : Byte) : (shiftRight p m).status.d = p.d := rfl
@[simp] theorem shiftRight_b (p : Status) (m : Byte) : (shiftRight p m).status.b = p.b := rfl
@[simp] theorem shiftRight_u (p : Status) (m : Byte) : (shiftRight p m).status.u = p.u := rfl
@[simp] theorem shiftRight_v (p : Status) (m : Byte) : (shiftRight p m).status.v = p.v := rfl
@[simp] theorem rotateLeft_i (p : Status) (m : Byte) : (rotateLeft p m).status.i = p.i := rfl
@[simp] theorem rotateLeft_d (p : Status) (m : Byte) : (rotateLeft p m).status.d = p.d := rfl
@[simp] theorem rotateLeft_b (p : Status) (m : Byte) : (rotateLeft p m).status.b = p.b := rfl
@[simp] theorem rotateLeft_u (p : Status) (m : Byte) : (rotateLeft p m).status.u = p.u := rfl
@[simp] theorem rotateLeft_v (p : Status) (m : Byte) : (rotateLeft p m).status.v = p.v := rfl
@[simp] theorem rotateRight_i (p : Status) (m : Byte) : (rotateRight p m).status.i = p.i := rfl
@[simp] theorem rotateRight_d (p : Status) (m : Byte) : (rotateRight p m).status.d = p.d := rfl
@[simp] theorem rotateRight_b (p : Status) (m : Byte) : (rotateRight p m).status.b = p.b := rfl
@[simp] theorem rotateRight_u (p : Status) (m : Byte) : (rotateRight p m).status.u = p.u := rfl
@[simp] theorem rotateRight_v (p : Status) (m : Byte) : (rotateRight p m).status.v = p.v := rfl
@[simp] theorem withZN_value (p : Status) (m : Byte) : (withZN p m).value = m := rfl
@[simp] theorem withZN_status (p : Status) (m : Byte) : (withZN p m).status = p.setZN m := rfl

end Sys2Proof.Machine
end

