-- ==== Sys2Proof/Laws/Completion.lean ====
section
/-! SUPPORT. Where an instruction completes: for each shared operation the next state of its executing
pulse, from the bytes the bus must have. -/

namespace Sys2Proof.Machine

open Sys2Proof

theorem pulseCost_eq_costOf (i : Instr) (s t : State) (ox : Bool) :
    pulseCost i s ⟨t, ox, 0⟩ = costOf i ox s := by
  cases ox <;> cases h : pageCrossed i.operand s <;> simp [pulseCost, costOf, h]

/-- A well-formed instruction has an opcode (R87). -/
theorem opcode_of_wellFormed {i : Instr} (h : i.wellFormed = true) : ∃ c, i.opcode = some c := by
  rw [(Laws.OpcodeRow.all i).1] at h
  exact Option.isSome_iff_exists.1 h

/-- Every meaning is one executing pulse of its own instruction. -/
theorem exec_is_pulse (i : Instr) : ∃ op, ∀ s, exec i s = pulse i s op := by
  cases i with
  | asl o => exact ⟨_, fun s => by unfold exec execAsl; rfl⟩
  | lsr o => exact ⟨_, fun s => by unfold exec execLsr; rfl⟩
  | rol o => exact ⟨_, fun s => by unfold exec execRol; rfl⟩
  | ror o => exact ⟨_, fun s => by unfold exec execRor; rfl⟩
  | inc o => exact ⟨_, fun s => by unfold exec execInc; rfl⟩
  | dec o => exact ⟨_, fun s => by unfold exec execDec; rfl⟩
  | inx => exact ⟨_, fun s => by unfold exec execInx; rfl⟩
  | iny => exact ⟨_, fun s => by unfold exec execIny; rfl⟩
  | dex => exact ⟨_, fun s => by unfold exec execDex; rfl⟩
  | dey => exact ⟨_, fun s => by unfold exec execDey; rfl⟩
  | adc o => exact ⟨_, fun s => by unfold exec execAdc; rfl⟩
  | sbc o => exact ⟨_, fun s => by unfold exec execSbc; rfl⟩
  | and o => exact ⟨_, fun s => by unfold exec execAnd; rfl⟩
  | ora o => exact ⟨_, fun s => by unfold exec execOra; rfl⟩
  | eor o => exact ⟨_, fun s => by unfold exec execEor; rfl⟩
  | cmp o => exact ⟨_, fun s => by unfold exec execCmp; rfl⟩
  | cpx o => exact ⟨_, fun s => by unfold exec execCpx; rfl⟩
  | cpy o => exact ⟨_, fun s => by unfold exec execCpy; rfl⟩
  | bit o => exact ⟨_, fun s => by unfold exec execBit; rfl⟩
  | jmp o => exact ⟨_, fun s => by unfold exec execJmp; rfl⟩
  | jsr a => exact ⟨_, fun s => by unfold exec execJsr; rfl⟩
  | rts => exact ⟨_, fun s => by unfold exec execRts; rfl⟩
  | rti => exact ⟨_, fun s => by unfold exec execRti; rfl⟩
  | brk => exact ⟨_, fun s => by unfold exec execBrk; rfl⟩
  | bpl d => exact ⟨_, fun s => by unfold exec execBpl; rfl⟩
  | bmi d => exact ⟨_, fun s => by unfold exec execBmi; rfl⟩
  | bvc d => exact ⟨_, fun s => by unfold exec execBvc; rfl⟩
  | bvs d => exact ⟨_, fun s => by unfold exec execBvs; rfl⟩
  | bcc d => exact ⟨_, fun s => by unfold exec execBcc; rfl⟩
  | bcs d => exact ⟨_, fun s => by unfold exec execBcs; rfl⟩
  | bne d => exact ⟨_, fun s => by unfold exec execBne; rfl⟩
  | beq d => exact ⟨_, fun s => by unfold exec execBeq; rfl⟩
  | lda o => exact ⟨_, fun s => by unfold exec execLda; rfl⟩
  | ldx o => exact ⟨_, fun s => by unfold exec execLdx; rfl⟩
  | ldy o => exact ⟨_, fun s => by unfold exec execLdy; rfl⟩
  | sta o => exact ⟨_, fun s => by unfold exec execSta; rfl⟩
  | stx o => exact ⟨_, fun s => by unfold exec execStx; rfl⟩
  | sty o => exact ⟨_, fun s => by unfold exec execSty; rfl⟩
  | tax => exact ⟨_, fun s => by unfold exec execTax; rfl⟩
  | tay => exact ⟨_, fun s => by unfold exec execTay; rfl⟩
  | txa => exact ⟨_, fun s => by unfold exec execTxa; rfl⟩
  | tya => exact ⟨_, fun s => by unfold exec execTya; rfl⟩
  | tsx => exact ⟨_, fun s => by unfold exec execTsx; rfl⟩
  | txs => exact ⟨_, fun s => by unfold exec execTxs; rfl⟩
  | pha => exact ⟨_, fun s => by unfold exec execPha; rfl⟩
  | php => exact ⟨_, fun s => by unfold exec execPhp; rfl⟩
  | pla => exact ⟨_, fun s => by unfold exec execPla; rfl⟩
  | plp => exact ⟨_, fun s => by unfold exec execPlp; rfl⟩
  | clc => exact ⟨_, fun s => by unfold exec execClc; rfl⟩
  | sec => exact ⟨_, fun s => by unfold exec execSec; rfl⟩
  | cli => exact ⟨_, fun s => by unfold exec execCli; rfl⟩
  | sei => exact ⟨_, fun s => by unfold exec execSei; rfl⟩
  | cld => exact ⟨_, fun s => by unfold exec execCld; rfl⟩
  | sed => exact ⟨_, fun s => by unfold exec execSed; rfl⟩
  | clv => exact ⟨_, fun s => by unfold exec execClv; rfl⟩
  | nop => exact ⟨_, fun s => by unfold exec execNop; rfl⟩
  | xxx c => exact ⟨_, fun s => by unfold exec execXxx; rfl⟩

/-- `exec` refuses a term exactly when it has no opcode. -/
theorem exec_eq_refused {i : Instr} {s : State} {r : Refusal} :
    exec i s = .refused r ↔ i.opcode = none ∧ r = .noEncoding := by
  obtain ⟨op, h⟩ := exec_is_pulse i
  rw [h, pulse_eq_refused]

/-- An instruction completes when its operation succeeds, with the boundary view and the bus of the state
its pulse ends. -/
theorem completes_of_done {i : Instr} {s t : State} {c : Byte} {ox : Bool} {b : Boundary}
    {bus : Nat → Byte} {op : State → Except Fault Done} (he : exec i s = pulse i s op)
    (hc : i.opcode = some c) (hp : pointersInBus i.operand s = true)
    (hr : op (s.atOperation i c) = .ok ⟨t, ox, 0⟩) (hb : (t.endPulse (costOf i ox s)).boundary = b)
    (hm : ∀ k, t.mem.read k = bus k) : Completes i s b bus :=
  ⟨_, he.trans (pulse_of_ok hc hp hr), by rw [pulseCost_eq_costOf]; exact hb, hm⟩

theorem pulse_registerOp {i : Instr} {s : State} {c : Byte} (f : State → State)
    (hc : i.opcode = some c) (hp : pointersInBus i.operand s = true) :
    pulse i s (registerOp f) = .next ((f (s.atOperation i c)).endPulse (costOf i false s)) := by
  rw [pulse_of_ok hc hp rfl, pulseCost_eq_costOf]

theorem pulse_readOp {i : Instr} {s : State} {c : Byte} {ox : Bool} (f : State → Byte → State)
    (hc : i.opcode = some c) (hp : pointersInBus i.operand s = true)
    (ho : operandInBus i.operand s = true) :
    pulse i s (readOp i.operand ox f) =
      .next ((f ((s.atOperation i c).setFetched (operandValue i.operand s))
        (operandValue i.operand s)).endPulse (costOf i ox s)) := by
  refine (pulse_of_ok hc hp ?_).trans (by rw [pulseCost_eq_costOf])
  rw [readOp, fetchOperand_atOperation ho]
  rfl

theorem pulse_storeOp {i : Instr} {s : State} {c : Byte} (v : State → Byte)
    (hc : i.opcode = some c) (hp : pointersInBus i.operand s = true)
    (hm : i.operand.mode ≠ .imm) (ho : s.inBus (effAddr i.operand s) = true) :
    pulse i s (storeOp v) =
      .next (((s.atOperation i c).wrote (effAddr i.operand s) (v (s.atOperation i c))).endPulse
        (costOf i false s)) := by
  refine (pulse_of_ok hc hp (storeOp_eq_ok.2 ⟨?_, rfl⟩)).trans ?_
  · rw [State.atOperation_inBus, State.atOperation_addrAbs s i c hm, ho]
  · rw [pulseCost_eq_costOf, State.atOperation_addrAbs s i c hm]

/-- A read-modify-write on A. -/
theorem pulse_modifyOp_imp {i : Instr} {s : State} {c : Byte} (f : Status → Byte → Result)
    (hc : i.opcode = some c) (hm : i.operand = .imp) :
    pulse i s (modifyOp i.operand f) =
      .next (((s.atOperation i c).setFetched s.a).setP (f { s.p with u := true } s.a).status
        |>.setA (f { s.p with u := true } s.a).value |>.endPulse (costOf i false s)) := by
  refine (pulse_of_ok (r := ⟨_, false, 0⟩) hc (by rw [hm]; rfl) ?_).trans (by rw [pulseCost_eq_costOf])
  rw [modifyOp, fetchOperand_atOperation (by rw [hm]; rfl), ok_bind]
  have hv : operandValue i.operand s = s.a := by rw [hm]; rfl
  simp only [hv, State.setFetched_p, State.atOperation_p, State.setFetched_fetched]
  rw [writeBack, if_pos (by simp [hm, Operand.mode])]
  rfl

/-- A read-modify-write on a byte of the bus. -/
theorem pulse_modifyOp_mem {i : Instr} {s : State} {c : Byte} (f : Status → Byte → Result)
    (hc : i.opcode = some c) (hp : pointersInBus i.operand s = true)
    (h : i.operand.mode ≠ .imp) (hm : i.operand.mode ≠ .imm)
    (ho : s.inBus (effAddr i.operand s) = true) :
    pulse i s (modifyOp i.operand f) =
      .next ((((s.atOperation i c).setFetched (operandValue i.operand s)).setP
          (f { s.p with u := true } (operandValue i.operand s)).status).wrote (effAddr i.operand s)
            (f { s.p with u := true } (operandValue i.operand s)).value
        |>.endPulse (costOf i false s)) := by
  refine (pulse_of_ok (r := ⟨_, false, 0⟩) hc hp ?_).trans (by rw [pulseCost_eq_costOf])
  rw [modifyOp, fetchOperand_atOperation (by rw [operandInBus_of_bus h hm, ho]), ok_bind]
  simp only [State.setFetched_p, State.atOperation_p, State.setFetched_fetched]
  rw [writeBack, if_neg (by simpa using h), memWrite_of_inBus ?_]
  · simp only [State.setP_addrAbs, State.setFetched_addrAbs, State.atOperation_addrAbs s i c hm]
    rfl
  · simp only [State.setP_inBus, State.setFetched_inBus, State.atOperation_inBus, State.setP_addrAbs,
      State.setFetched_addrAbs, State.atOperation_addrAbs s i c hm, ho]

end Sys2Proof.Machine
end

