-- ==== Sys2Proof/Laws/Step.lean ====
section
/-! SUPPORT. What one step can do: the host's entry points, the fetch, and the inversion of `step`. -/

namespace Sys2Proof.Machine

open Sys2Proof

/-! ## The host's entry points -/

/-- The state a successful `reset()` leaves (R350). -/
def State.afterReset (s : State) : State :=
  { s with
    a := 0, x := 0, y := 0, sp := 0xFD, pc := s.wordAt resetVector
    p := { c := false, z := false, i := false, d := false, b := false, u := true, v := false, n := false }
    opcode := 0, fetched := 0, mode := .imp, addrAbs := 0, addrRel := 0, remaining := s.cfg.resetCycles }

theorem resetEntry_eq_ok {s t : State} :
    resetEntry s = .ok t ↔
      s.inBus 0xFFFC = true ∧ s.inBus 0xFFFD = true ∧ t = s.afterReset := by
  simp only [resetEntry, bind_eq_ok, memRead16_eq_ok, pure_eq_ok, Except.ok.injEq]
  constructor
  · rintro ⟨_, ⟨h, h', rfl⟩, rfl⟩
    exact ⟨h, h', rfl⟩
  · rintro ⟨h, h', rfl⟩
    exact ⟨_, ⟨h, h', rfl⟩, rfl⟩

/-- The state a successful NMI or IRQ entry leaves (R312). -/
def State.afterEntry (s : State) (vector : Addr) (cost : Nat) : State :=
  ((s.entered false).setPc ((s.entered false).wordAt vector)).setRemaining cost

theorem interruptEntry_eq_ok {s t : State} {vector : Addr} {cost : Nat} :
    interruptEntry s vector cost = .ok t ↔
      entryInBus s vector = true ∧ t = s.afterEntry vector cost := by
  simp only [interruptEntry, bind_eq_ok, enterException_eq_ok, pure_eq_ok, Except.ok.injEq]
  constructor
  · rintro ⟨_, ⟨h, rfl⟩, rfl⟩
    exact ⟨h, rfl⟩
  · rintro ⟨h, rfl⟩
    exact ⟨_, ⟨h, rfl⟩, rfl⟩

theorem hostWrite_eq_next {s t : State} {addr : Addr} {v : Byte} :
    hostWrite s addr v = .next t ↔ s.inBus addr = true ∧ t = s.wrote addr v := by
  cases h : s.inBus addr
  · simp [hostWrite, h]
  · simp only [hostWrite, h, if_true, Host.Outcome.next.injEq, true_and]
    exact eq_comm

/-! ## The fetch -/

/-- Every opcode byte decodes to an instruction of that opcode (R80, R85, R87). -/
theorem decodeBytes_opcode (c b1 b2 : Byte) : (decodeBytes c b1 b2).opcode = some c := by
  have key : ∀ c : Byte, (decodeBytes c 0 0).opcode = some c := by decide +kernel
  rw [← key c]
  unfold decodeBytes
  generalize descriptor c = d
  obtain ⟨m, md, n⟩ := d
  cases m <;> cases md <;> rfl

theorem decodeBytes_wellFormed (c b1 b2 : Byte) : (decodeBytes c b1 b2).wellFormed = true := by
  rw [(Laws.OpcodeRow.all _).1, decodeBytes_opcode]
  rfl

/-- The operand bytes of the decoded instruction are as many as the mode of its opcode has (R81). -/
theorem decodeBytes_length (c b1 b2 : Byte) :
    (decodeBytes c b1 b2).length = 1 + (descriptor c).mode.operandBytes := by
  rw [Instr.length, Operand.bytes_length,
    ((Laws.OpcodeRow.all _).2 c (decodeBytes_opcode c b1 b2)).2]

theorem fetchBytes_of_inBus {s : State} {n : Nat} {addr : Addr}
    (h : ∀ k < n, s.inBus (addr + BitVec.ofNat 16 k) = true) :
    fetchBytes s n addr = .ok ((List.range n).map fun k => s.byteAt (addr + BitVec.ofNat 16 k)) := by
  induction n generalizing addr with
  | zero => rfl
  | succ n ih =>
    have e (k : Nat) : addr + 1 + BitVec.ofNat 16 k = addr + BitVec.ofNat 16 (k + 1) := by
      rw [Nat.add_comm k 1, BitVec.ofNat_add, ← add_assoc]
      rfl
    have h0 : s.inBus addr = true := by simpa using h 0 (by omega)
    rw [fetchBytes, memRead_of_inBus h0, ok_bind, ih fun k hk => by rw [e]; exact h (k + 1) (by omega)]
    simp only [ok_bind, pure_eq_ok, List.range_succ_eq_map, List.map_cons, List.map_map, Function.comp_def, e]
    simp

/-- The fetch reads the instruction that the bytes at PC decode to, when the bus has the bytes it needs. -/
theorem fetchInstr_of_decode {s : State} {i : Instr} {rest : List Byte}
    (hd : decode [s.byteAt s.pc, s.byteAt (s.pc + 1), s.byteAt (s.pc + 2)] = .ok (i, rest))
    (hb : ∀ k < i.length, s.inBus (s.pc + BitVec.ofNat 16 k) = true) : fetchInstr s = .ok i := by
  have h0 : s.inBus s.pc = true := by
    have := hb 0 (by rw [Instr.length]; omega)
    simpa using this
  have hl : i.length = 1 + (descriptor (s.byteAt s.pc)).mode.operandBytes := by
    simp only [decode] at hd
    split at hd <;> first | (cases hd; exact decodeBytes_length ..) | cases hd
  have e (k : Nat) : s.pc + 1 + BitVec.ofNat 16 k = s.pc + BitVec.ofNat 16 (k + 1) := by
    rw [Nat.add_comm k 1, BitVec.ofNat_add, ← add_assoc]
    rfl
  rw [fetchInstr, memRead_of_inBus h0, ok_bind,
    fetchBytes_of_inBus fun k hk => by rw [e]; exact hb (k + 1) (by omega), ok_bind]
  simp only [decode] at hd
  split at hd
  · rename_i hm
    cases hd
    simp [hm]
  · rename_i hm hr
    cases hr
    cases hd
    simp [hm, List.range_succ]
  · rename_i hm hr
    cases hr
    cases hd
    have e2 : s.pc + 1#16 + 1#16 = s.pc + 2 := by rw [add_assoc]; rfl
    simp [hm, List.range_succ, e2]
  · cases hd

theorem fetchInstr_wellFormed {s : State} {i : Instr} (h : fetchInstr s = .ok i) :
    i.wellFormed = true := by
  simp only [fetchInstr, bind_eq_ok, pure_eq_ok, Except.ok.injEq] at h
  obtain ⟨_, -, _, -, rfl⟩ := h
  exact decodeBytes_wellFormed ..

/-! ## One step -/

theorem step_of_fault {s : State} {f : Fault} (h : s.fault = some f) : step s = .fault f := by
  simp [step, h]

@[simp] theorem State.faultedWith_fault (s : State) (f : Fault) : (s.faultedWith f).fault = some f := rfl
@[simp] theorem State.faultedWith_cfg (s : State) (f : Fault) : (s.faultedWith f).cfg = s.cfg := rfl
@[simp] theorem State.faultedWith_host (s : State) (f : Fault) : (s.faultedWith f).host = s.host.tail := rfl

theorem State.afterStep_of_next {s t : State} (h : step s = .next t) : s.afterStep = t := by
  simp [State.afterStep, h]

theorem State.afterStep_of_refused {s : State} {r : Refusal} (h : step s = .refused r) : s.afterStep = s := by
  simp [State.afterStep, h]

theorem State.afterStep_of_fault {s : State} {f : Fault} (hs : s.fault = none) (h : step s = .fault f) :
    s.afterStep = s.faultedWith f := by
  simp [State.afterStep, h, hs]

/-- A marked core takes no step (R45). -/
theorem State.afterStep_of_marked {s : State} {f : Fault} (h : s.fault = some f) : s.afterStep = s := by
  simp [State.afterStep, step_of_fault h, h]

/-- With no call listed the host calls `clock()`. -/
theorem step_of_no_call {s : State} (h : s.fault = none) (hh : s.host = []) : step s = clock s := by
  simp [step, h, nextAction, hh, hostAction]

theorem step_of_call {s : State} {act : HostAction} {rest : List HostAction} (h : s.fault = none)
    (hh : s.host = act :: rest) : step s = hostAction act (s.setHost rest) := by
  simp [step, h, nextAction, hh]

theorem clock_busy {s : State} (h : s.remaining ≠ 0) : clock s = .next s.busyPulse := by
  simp [clock, h]

theorem clock_idle {s : State} {i : Instr} (h : s.remaining = 0) (hf : fetchInstr s = .ok i) :
    clock s = exec i s := by
  simp [clock, h, hf]

/-- Everything a step that answers a next state can have done, from the state `s'` in which the host's
call is taken off its list. -/
theorem step_eq_next {s t : State} (h : step s = .next t) :
    s.fault = none ∧ ∃ s', s' = s.setHost s.host.tail ∧
      ((∃ i, i.wellFormed = true ∧ s.remaining = 0 ∧ exec i s' = .next t) ∨
        (s.remaining ≠ 0 ∧ t = s'.busyPulse) ∨
        (s.inBus 0xFFFC = true ∧ s.inBus 0xFFFD = true ∧ t = s'.afterReset) ∨
        (s.remaining = 0 ∧ entryInBus s nmiVector = true ∧ t = s'.afterEntry nmiVector s.cfg.nmiCycles) ∨
        (s.remaining = 0 ∧ s.p.i = false ∧ entryInBus s irqVector = true ∧
          t = s'.afterEntry irqVector s.cfg.irqCycles) ∨
        t = s' ∨
        ∃ addr v, s.inBus addr = true ∧ t = s'.wrote addr v) := by
  cases hf : s.fault with
  | some f => simp [step_of_fault hf] at h
  | none =>
    refine ⟨rfl, _, rfl, ?_⟩
    have clk : clock (s.setHost s.host.tail) = .next t →
        (∃ i, i.wellFormed = true ∧ s.remaining = 0 ∧ exec i (s.setHost s.host.tail) = .next t) ∨
          (s.remaining ≠ 0 ∧ t = (s.setHost s.host.tail).busyPulse) := fun h => by
      by_cases hr : s.remaining = 0
      · simp only [clock, State.setHost_remaining, hr, if_true] at h
        split at h
        · rename_i i hi
          exact .inl ⟨i, fetchInstr_wellFormed hi, hr, h⟩
        · cases h
      · rw [clock_busy (by simpa using hr)] at h
        cases h
        exact .inr ⟨hr, rfl⟩
    cases hh : s.host with
    | nil =>
      rw [step_of_no_call hf hh] at h
      have e : s.setHost s.host.tail = s := by rw [hh, List.tail_nil, ← hh]; rfl
      rw [← hh]
      rcases clk (by rw [e]; exact h) with h | h
      · exact .inl h
      · exact .inr (.inl h)
    | cons act rest =>
      rw [step_of_call hf hh] at h
      have e : s.host.tail = rest := by rw [hh]; rfl
      rw [e] at clk
      rw [List.tail_cons]
      cases act with
      | clock =>
        rcases clk h with h | h
        · exact .inl h
        · exact .inr (.inl h)
      | reset =>
        rw [hostAction, outcome_eq_next, resetEntry_eq_ok] at h
        exact .inr (.inr (.inl h))
      | nmi =>
        simp only [hostAction, interruptCall] at h
        split at h
        · rename_i hr
          rw [outcome_eq_next, nmiEntry, interruptEntry_eq_ok] at h
          exact .inr (.inr (.inr (.inl ⟨hr, h⟩)))
        · cases h
      | irq =>
        simp only [hostAction, interruptCall] at h
        split at h
        · rename_i hr
          rw [outcome_eq_next, irqEntry] at h
          split at h
          · cases h
            exact .inr (.inr (.inr (.inr (.inr (.inl rfl)))))
          · rename_i hi
            rw [interruptEntry_eq_ok] at h
            exact .inr (.inr (.inr (.inr (.inl ⟨hr, by simpa using hi, h⟩))))
        · cases h
      | writeBus addr v =>
        rw [hostAction, hostWrite_eq_next] at h
        exact .inr (.inr (.inr (.inr (.inr (.inr ⟨addr, v, h⟩)))))

end Sys2Proof.Machine
end

