-- ==== Sys2Proof/Tests/Slice0.lean ====
section
/-! SUPPORT. The model's own tests: ill-formed terms, words written out from the spec's encodings, the spec's
test vectors (spec/95_test_vectors.md) one step each, and a witness for every statement with hypotheses. -/

namespace Sys2Proof.Machine

open Sys2Proof

/-! ## Small states -/

/-- A status whose byte is the given one. -/
def flags (b : Byte) : Status :=
  { c := b.getLsbD 0, z := b.getLsbD 1, i := b.getLsbD 2, d := b.getLsbD 3
    b := b.getLsbD 4, u := b.getLsbD 5, v := b.getLsbD 6, n := b.getLsbD 7 }

/-- Write a list of bytes from an address on, each address taken mod 65536. -/
def writeBytes (m : Memory) : Addr → List Byte → Memory
  | _, [] => m
  | addr, b :: bs => writeBytes (m.write addr.toNat b) (addr + 1) bs

/-- An Idle core after RESET with the given PC and bus bytes, the code at PC. -/
def ready (pc : Addr) (cells : List (Addr × Byte)) (code : List Byte) : State :=
  { State.reset with
    pc := pc
    remaining := 0
    mem := writeBytes (cells.foldl (fun m cell => m.write cell.1.toNat cell.2) []) pc code }

/-- A bus of 0x8000 bytes. -/
def bus8000 : Config := { Config.standard with memSize := 0x8000 }

/-- A bus of 0x0100 bytes. -/
def bus0100 : Config := { Config.standard with memSize := 0x0100 }

/-- A bus of the given number of bytes. -/
def busOf (size : Nat) : Config := { Config.standard with memSize := size }

/-- The standard parameters but for `DECIMAL_MODE`. -/
def decimal (m : DecimalMode) : Config := { Config.standard with decimalMode := m }

/-- One step answers a next state that passes the check. -/
def gives (s : State) (check : State → Bool) : Bool :=
  match step s with
  | .next t => check t
  | .fault _ => false
  | .refused _ => false

/-- One step stops with the fault. -/
def stops (s : State) (f : Fault) : Bool :=
  match step s with
  | .next _ => false
  | .fault g => g == f
  | .refused _ => false

/-- `exec` answers a next state that passes the check. -/
def runs (i : Instr) (s : State) (check : State → Bool) : Bool :=
  match exec i s with
  | .next t => check t
  | .fault _ => false
  | .refused _ => false

/-! ## Ill-formed terms (R87, R88): one for each check of WellFormed -/

theorem test_illformed_asl : (Instr.asl (.imm 0x01)).wellFormed = false := by decide

theorem test_illformed_lsr : (Instr.lsr (.aby 0x1234)).wellFormed = false := by decide

theorem test_illformed_rol : (Instr.rol (.izx 0x10)).wellFormed = false := by decide

theorem test_illformed_ror : (Instr.ror (.rel 0x10)).wellFormed = false := by decide

theorem test_illformed_inc : (Instr.inc .imp).wellFormed = false := by decide

theorem test_illformed_dec : (Instr.dec (.izy 0x10)).wellFormed = false := by decide

theorem test_illformed_adc : (Instr.adc .imp).wellFormed = false := by decide

theorem test_illformed_sbc : (Instr.sbc (.ind 0x1234)).wellFormed = false := by decide

theorem test_illformed_and : (Instr.and (.zpy 0x10)).wellFormed = false := by decide

theorem test_illformed_ora : (Instr.ora (.rel 0x10)).wellFormed = false := by decide

theorem test_illformed_eor : (Instr.eor .imp).wellFormed = false := by decide

theorem test_illformed_cmp : (Instr.cmp (.zpy 0x10)).wellFormed = false := by decide

theorem test_illformed_cpx : (Instr.cpx (.zpx 0x10)).wellFormed = false := by decide

theorem test_illformed_cpy : (Instr.cpy (.abx 0x1234)).wellFormed = false := by decide

theorem test_illformed_bit : (Instr.bit (.imm 0x01)).wellFormed = false := by decide

theorem test_illformed_jmp : (Instr.jmp (.abx 0x1234)).wellFormed = false := by decide

theorem test_illformed_lda : (Instr.lda (.zpy 0x10)).wellFormed = false := by decide

theorem test_illformed_ldx : (Instr.ldx (.zpx 0x10)).wellFormed = false := by decide

theorem test_illformed_ldy : (Instr.ldy (.zpy 0x10)).wellFormed = false := by decide

theorem test_illformed_sta : (Instr.sta (.imm 0x01)).wellFormed = false := by decide

theorem test_illformed_stx : (Instr.stx (.abx 0x1234)).wellFormed = false := by decide

theorem test_illformed_sty : (Instr.sty (.imm 0x01)).wellFormed = false := by decide

/-- 0xEA is NOP, no illegal byte (R88). -/
theorem test_illformed_xxx : (Instr.xxx 0xEA).wellFormed = false := by decide

theorem test_wellformed_xxx : (Instr.xxx 0xEB).wellFormed = true := by decide

theorem test_illformed_is_refused :
    ∃ s, exec (.bit (.imm 0x01)) s = .refused .noEncoding ∧ encode (.bit (.imm 0x01)) = [] :=
  ⟨State.reset, rfl, rfl⟩

theorem test_decode_rejects_missing_bytes :
    decode [0xAD, 0x34] = .error (.missingOperandBytes 0xAD) ∧ decode [] = .error .noOpcode := by
  decide

/-! ## Words written out from the encodings of R87, one for each constructor -/

theorem test_decode_asl :
    decodeTableWord 24 0b11000011_01011010_00011110 = some (.asl (.abx 0xC35A)) := by decide

theorem test_decode_lsr : decodeTableWord 16 0b10010110_01000110 = some (.lsr (.zp 0x96)) := by decide

theorem test_decode_rol : decodeTableWord 8 0b00101010 = some (.rol .imp) := by decide

theorem test_decode_ror : decodeTableWord 16 0b10010110_01110110 = some (.ror (.zpx 0x96)) := by decide

theorem test_decode_inc :
    decodeTableWord 24 0b11000011_01011010_11101110 = some (.inc (.abs 0xC35A)) := by decide

theorem test_decode_dec :
    decodeTableWord 24 0b11000011_01011010_11011110 = some (.dec (.abx 0xC35A)) := by decide

theorem test_decode_inx : decodeTableWord 8 0b11101000 = some .inx := by decide

theorem test_decode_iny : decodeTableWord 8 0b11001000 = some .iny := by decide

theorem test_decode_dex : decodeTableWord 8 0b11001010 = some .dex := by decide

theorem test_decode_dey : decodeTableWord 8 0b10001000 = some .dey := by decide

theorem test_decode_adc : decodeTableWord 16 0b10010110_01101001 = some (.adc (.imm 0x96)) := by decide

theorem test_decode_sbc : decodeTableWord 16 0b10010110_11110001 = some (.sbc (.izy 0x96)) := by decide

theorem test_decode_and : decodeTableWord 16 0b10010110_00100001 = some (.and (.izx 0x96)) := by decide

theorem test_decode_ora :
    decodeTableWord 24 0b11000011_01011010_00011001 = some (.ora (.aby 0xC35A)) := by decide

theorem test_decode_eor :
    decodeTableWord 24 0b11000011_01011010_01011101 = some (.eor (.abx 0xC35A)) := by decide

theorem test_decode_cmp :
    decodeTableWord 24 0b11000011_01011010_11011001 = some (.cmp (.aby 0xC35A)) := by decide

theorem test_decode_cpx : decodeTableWord 16 0b10010110_11100000 = some (.cpx (.imm 0x96)) := by decide

theorem test_decode_cpy :
    decodeTableWord 24 0b11000011_01011010_11001100 = some (.cpy (.abs 0xC35A)) := by decide

theorem test_decode_bit : decodeTableWord 16 0b10010110_00100100 = some (.bit (.zp 0x96)) := by decide

theorem test_decode_jmp :
    decodeTableWord 24 0b11000011_01011010_01101100 = some (.jmp (.ind 0xC35A)) := by decide

theorem test_decode_jsr : decodeTableWord 24 0b11000011_01011010_00100000 = some (.jsr 0xC35A) := by decide

theorem test_decode_rts : decodeTableWord 8 0b01100000 = some .rts := by decide

theorem test_decode_rti : decodeTableWord 8 0b01000000 = some .rti := by decide

theorem test_decode_brk : decodeTableWord 8 0b00000000 = some .brk := by decide

theorem test_decode_bpl : decodeTableWord 16 0b10010110_00010000 = some (.bpl 0x96) := by decide

theorem test_decode_bmi : decodeTableWord 16 0b10010110_00110000 = some (.bmi 0x96) := by decide

theorem test_decode_bvc : decodeTableWord 16 0b10010110_01010000 = some (.bvc 0x96) := by decide

theorem test_decode_bvs : decodeTableWord 16 0b10010110_01110000 = some (.bvs 0x96) := by decide

theorem test_decode_bcc : decodeTableWord 16 0b10010110_10010000 = some (.bcc 0x96) := by decide

theorem test_decode_bcs : decodeTableWord 16 0b10010110_10110000 = some (.bcs 0x96) := by decide

theorem test_decode_bne : decodeTableWord 16 0b10010110_11010000 = some (.bne 0x96) := by decide

theorem test_decode_beq : decodeTableWord 16 0b10010110_11110000 = some (.beq 0x96) := by decide

theorem test_decode_lda : decodeTableWord 16 0b10010110_10110001 = some (.lda (.izy 0x96)) := by decide

theorem test_decode_ldx : decodeTableWord 16 0b10010110_10110110 = some (.ldx (.zpy 0x96)) := by decide

theorem test_decode_ldy :
    decodeTableWord 24 0b11000011_01011010_10111100 = some (.ldy (.abx 0xC35A)) := by decide

theorem test_decode_sta : decodeTableWord 16 0b10010110_10000001 = some (.sta (.izx 0x96)) := by decide

theorem test_decode_stx : decodeTableWord 16 0b10010110_10010110 = some (.stx (.zpy 0x96)) := by decide

theorem test_decode_sty : decodeTableWord 16 0b10010110_10010100 = some (.sty (.zpx 0x96)) := by decide

theorem test_decode_tax : decodeTableWord 8 0b10101010 = some .tax := by decide

theorem test_decode_tay : decodeTableWord 8 0b10101000 = some .tay := by decide

theorem test_decode_txa : decodeTableWord 8 0b10001010 = some .txa := by decide

theorem test_decode_tya : decodeTableWord 8 0b10011000 = some .tya := by decide

theorem test_decode_tsx : decodeTableWord 8 0b10111010 = some .tsx := by decide

theorem test_decode_txs : decodeTableWord 8 0b10011010 = some .txs := by decide

theorem test_decode_pha : decodeTableWord 8 0b01001000 = some .pha := by decide

theorem test_decode_php : decodeTableWord 8 0b00001000 = some .php := by decide

theorem test_decode_pla : decodeTableWord 8 0b01101000 = some .pla := by decide

theorem test_decode_plp : decodeTableWord 8 0b00101000 = some .plp := by decide

theorem test_decode_clc : decodeTableWord 8 0b00011000 = some .clc := by decide

theorem test_decode_sec : decodeTableWord 8 0b00111000 = some .sec := by decide

theorem test_decode_cli : decodeTableWord 8 0b01011000 = some .cli := by decide

theorem test_decode_sei : decodeTableWord 8 0b01111000 = some .sei := by decide

theorem test_decode_cld : decodeTableWord 8 0b11011000 = some .cld := by decide

theorem test_decode_sed : decodeTableWord 8 0b11111000 = some .sed := by decide

theorem test_decode_clv : decodeTableWord 8 0b10111000 = some .clv := by decide

theorem test_decode_nop : decodeTableWord 8 0b11101010 = some .nop := by decide

theorem test_decode_xxx : decodeTableWord 8 0b10011100 = some (.xxx 0x9C) := by decide

/-! ## The vectors of spec/95_test_vectors.md, at most two for an instruction, and the host calls -/

/-- V4: ZPY wraps: LDX $FF,Y. -/
theorem test_ldx_v4 : gives
    { ready 0x0200 [(0x0001, 0x99)] [0xB6, 0xFF] with y := 0x02 }
    (fun t => t.x == 0x99 && t.p.toByte == 0xA0 && t.pc == 0x0202 && t.remaining == 3) = true := by decide

/-- V7: ABX page crossed: LDA $12FF,X (+1 cycle). -/
theorem test_lda_v7 : gives
    { ready 0x0200 [(0x1300, 0x02)] [0xBD, 0xFF, 0x12] with x := 0x01 }
    (fun t => t.a == 0x02 && t.pc == 0x0203 && t.remaining == 4) = true := by decide

/-- V15: IND page-wrap bug: JMP ($10FF). -/
theorem test_jmp_v15 : gives
    (ready 0x0200 [(0x1000, 0x12), (0x10FF, 0x34), (0x1100, 0x56)] [0x6C, 0xFF, 0x10])
    (fun t => t.pc == 0x1234 && t.remaining == 4) = true := by decide

/-- V16: IND without wrap: JMP ($1000). -/
theorem test_jmp_v16 : gives
    (ready 0x0200 [(0x1000, 0x34), (0x1001, 0x12)] [0x6C, 0x00, 0x10])
    (fun t => t.pc == 0x1234 && t.remaining == 4) = true := by decide

/-- V17: store ABX page crossed, no extra cycle: STA $12FF,X. -/
theorem test_sta_v17 : gives
    { ready 0x0200 [] [0x9D, 0xFF, 0x12] with a := 0xAA, x := 0x01 }
    (fun t => t.pc == 0x0203 && t.byteAt 0x1300 == 0xAA && t.remaining == 4) = true := by decide

/-- V20: read-modify-write ABX page crossed, no extra cycle: INC $12FF,X. -/
theorem test_inc_v20 : gives
    { ready 0x0200 [(0x1300, 0x41)] [0xFE, 0xFF, 0x12] with x := 0x01 }
    (fun t => t.pc == 0x0203 && t.byteAt 0x1300 == 0x42 && t.remaining == 6) = true := by decide

/-- V21: compare ABX page crossed, +1 (CMP has ox = 1): CMP $12FF,X. -/
theorem test_cmp_v21 : gives
    { ready 0x0200 [(0x1300, 0x02)] [0xDD, 0xFF, 0x12] with a := 0x02, x := 0x01 }
    (fun t => t.p.toByte == 0x23 && t.pc == 0x0203 && t.remaining == 4) = true := by decide

/-- V22: CPX ABS, X < m. -/
theorem test_cpx_v22 : gives
    { ready 0x0200 [(0x1300, 0x03)] [0xEC, 0x00, 0x13] with x := 0x02 }
    (fun t => t.p.toByte == 0xA0 && t.pc == 0x0203 && t.remaining == 3) = true := by decide

/-- V23: ASL A: 0x81. -/
theorem test_asl_v23 : gives
    { ready 0x0200 [] [0x0A] with a := 0x81 }
    (fun t => t.a == 0x02 && t.p.toByte == 0x21 && t.pc == 0x0201 && t.remaining == 1) = true := by decide

/-- V25: ASL ABX. -/
theorem test_asl_v25 : gives
    { ready 0x0200 [(0x0301, 0x40)] [0x1E, 0x00, 0x03] with x := 0x01 }
    (fun t => t.p.toByte == 0xA0 && t.pc == 0x0203 &&
      t.byteAt 0x0301 == 0x80 && t.remaining == 6) = true := by decide

/-- V26: LSR A: 0x01 gives 0, C = 1, Z = 1. -/
theorem test_lsr_v26 : gives
    { ready 0x0200 [] [0x4A] with a := 0x01 }
    (fun t => t.a == 0x00 && t.p.toByte == 0x23 && t.pc == 0x0201 && t.remaining == 1) = true := by decide

/-- V27: LSR zp: 0xFF. -/
theorem test_lsr_v27 : gives
    (ready 0x0200 [(0x0010, 0xFF)] [0x46, 0x10])
    (fun t => t.p.toByte == 0x21 && t.pc == 0x0202 &&
      t.byteAt 0x0010 == 0x7F && t.remaining == 4) = true := by decide

/-- V28: ROL A: 0x80 with C = 0. -/
theorem test_rol_v28 : gives
    { ready 0x0200 [] [0x2A] with a := 0x80 }
    (fun t => t.a == 0x00 && t.p.toByte == 0x23 && t.pc == 0x0201 && t.remaining == 1) = true := by decide

/-- V29: ROL A: 0x40 with C = 1. -/
theorem test_rol_v29 : gives
    { ready 0x0200 [] [0x2A] with a := 0x40, p := flags 0x21 }
    (fun t => t.a == 0x81 && t.p.toByte == 0xA0 && t.pc == 0x0201 && t.remaining == 1) = true := by decide

/-- V30: ROR A: 0x01 with C = 1. -/
theorem test_ror_v30 : gives
    { ready 0x0200 [] [0x6A] with a := 0x01, p := flags 0x21 }
    (fun t => t.a == 0x80 && t.p.toByte == 0xA1 && t.pc == 0x0201 && t.remaining == 1) = true := by decide

/-- V31: ROR zp: 0x00 with C = 1. -/
theorem test_ror_v31 : gives
    { ready 0x0200 [] [0x66, 0x10] with p := flags 0x21 }
    (fun t => t.p.toByte == 0xA0 && t.pc == 0x0202 &&
      t.byteAt 0x0010 == 0x80 && t.remaining == 4) = true := by decide

/-- V32: INC zp: 0xFF wraps to 0, C = 1 unchanged. -/
theorem test_inc_v32 : gives
    { ready 0x0200 [(0x0010, 0xFF)] [0xE6, 0x10] with p := flags 0x21 }
    (fun t => t.p.toByte == 0x23 && t.pc == 0x0202 &&
      t.byteAt 0x0010 == 0x00 && t.remaining == 4) = true := by decide

/-- V34: DEC zp: 0x00 wraps to 0xFF. -/
theorem test_dec_v34 : gives
    (ready 0x0200 [(0x0010, 0x00)] [0xC6, 0x10])
    (fun t => t.p.toByte == 0xA0 && t.pc == 0x0202 &&
      t.byteAt 0x0010 == 0xFF && t.remaining == 4) = true := by decide

/-- V35: DEC ZPX: 0x01 gives 0. -/
theorem test_dec_v35 : gives
    { ready 0x0200 [(0x0015, 0x01)] [0xD6, 0x10] with x := 0x05 }
    (fun t => t.p.toByte == 0x22 && t.pc == 0x0202 &&
      t.byteAt 0x0015 == 0x00 && t.remaining == 5) = true := by decide

/-- V36: INX: 0xFF wraps to 0. -/
theorem test_inx_v36 : gives
    { ready 0x0200 [] [0xE8] with x := 0xFF }
    (fun t => t.x == 0x00 && t.p.toByte == 0x22 && t.pc == 0x0201 && t.remaining == 1) = true := by decide

/-- V37: INY: 0x7F gives 0x80. -/
theorem test_iny_v37 : gives
    { ready 0x0200 [] [0xC8] with y := 0x7F }
    (fun t => t.y == 0x80 && t.p.toByte == 0xA0 && t.pc == 0x0201 && t.remaining == 1) = true := by decide

/-- V38: DEX: 0x00 wraps to 0xFF. -/
theorem test_dex_v38 : gives
    (ready 0x0200 [] [0xCA])
    (fun t => t.x == 0xFF && t.p.toByte == 0xA0 && t.pc == 0x0201 && t.remaining == 1) = true := by decide

/-- V39: DEY: 0x01 gives 0. -/
theorem test_dey_v39 : gives
    { ready 0x0200 [] [0x88] with y := 0x01 }
    (fun t => t.y == 0x00 && t.p.toByte == 0x22 && t.pc == 0x0201 && t.remaining == 1) = true := by decide

/-- V41: ADC: A=7F + 01 + C=0 (signed overflow). -/
theorem test_adc_v41 : gives
    { ready 0x0200 [] [0x69, 0x01] with a := 0x7F, p := flags 0x20 }
    (fun t => t.a == 0x80 && t.p.toByte == 0xE0 && t.pc == 0x0202 && t.remaining == 1) = true := by decide

/-- V75: ADC decimal 58 + 46 + C, `DECIMAL_MODE` nmos. -/
theorem test_adc_v75 : gives
    { ready 0x0200 [] [0x69, 0x46] with a := 0x58, p := flags 0x29, cfg := decimal .nmos }
    (fun t => t.a == 0x05 && t.p.toByte == 0xE9 && t.pc == 0x0202 && t.remaining == 1) = true := by decide

/-- V50: SBC: A=80 - 01, C=1 (signed overflow). -/
theorem test_sbc_v50 : gives
    { ready 0x0200 [] [0xE9, 0x01] with a := 0x80, p := flags 0x21 }
    (fun t => t.a == 0x7F && t.p.toByte == 0x61 && t.pc == 0x0202 && t.remaining == 1) = true := by decide

/-- V78: SBC decimal 46 - 12 with borrow in, `DECIMAL_MODE` nmos. -/
theorem test_sbc_v78 : gives
    { ready 0x0200 [] [0xE9, 0x12] with a := 0x46, p := flags 0x28, cfg := decimal .nmos }
    (fun t => t.a == 0x33 && t.p.toByte == 0x29 && t.pc == 0x0202 && t.remaining == 1) = true := by decide

/-- V54: AND #$3C. -/
theorem test_and_v54 : gives
    { ready 0x0200 [] [0x29, 0x3C] with a := 0xF0 }
    (fun t => t.a == 0x30 && t.pc == 0x0202 && t.remaining == 1) = true := by decide

/-- V55: AND #$00 gives Z. -/
theorem test_and_v55 : gives
    { ready 0x0200 [] [0x29, 0x00] with a := 0xFF }
    (fun t => t.a == 0x00 && t.p.toByte == 0x22 && t.pc == 0x0202 && t.remaining == 1) = true := by decide

/-- V56: ORA #$80. -/
theorem test_ora_v56 : gives
    { ready 0x0200 [] [0x09, 0x80] with a := 0x01 }
    (fun t => t.a == 0x81 && t.p.toByte == 0xA0 && t.pc == 0x0202 && t.remaining == 1) = true := by decide

/-- V57: ORA zp, both 0. -/
theorem test_ora_v57 : gives
    (ready 0x0200 [] [0x05, 0x10])
    (fun t => t.p.toByte == 0x22 && t.pc == 0x0202 && t.remaining == 2) = true := by decide

/-- V58: EOR #$0F. -/
theorem test_eor_v58 : gives
    { ready 0x0200 [] [0x49, 0x0F] with a := 0xFF }
    (fun t => t.a == 0xF0 && t.p.toByte == 0xA0 && t.pc == 0x0202 && t.remaining == 1) = true := by decide

/-- V59: EOR with itself gives Z. -/
theorem test_eor_v59 : gives
    { ready 0x0200 [] [0x49, 0x5A] with a := 0x5A }
    (fun t => t.a == 0x00 && t.p.toByte == 0x22 && t.pc == 0x0202 && t.remaining == 1) = true := by decide

/-- V60: CMP equal. -/
theorem test_cmp_v60 : gives
    { ready 0x0200 [] [0xC9, 0x40] with a := 0x40 }
    (fun t => t.p.toByte == 0x23 && t.pc == 0x0202 && t.remaining == 1) = true := by decide

/-- V64: CPX equal. -/
theorem test_cpx_v64 : gives
    { ready 0x0200 [] [0xE0, 0x05] with x := 0x05 }
    (fun t => t.p.toByte == 0x23 && t.pc == 0x0202 && t.remaining == 1) = true := by decide

/-- V65: CPY 0x10 vs 0x20. -/
theorem test_cpy_v65 : gives
    { ready 0x0200 [] [0xC0, 0x20] with y := 0x10 }
    (fun t => t.p.toByte == 0xA0 && t.pc == 0x0202 && t.remaining == 1) = true := by decide

/-- V66: CPY 0x00 vs 0xFF. -/
theorem test_cpy_v66 : gives
    (ready 0x0200 [] [0xC0, 0xFF])
    (fun t => t.pc == 0x0202 && t.remaining == 1) = true := by decide

/-- V67: BIT zp: A & m != 0, N and V from m. -/
theorem test_bit_v67 : gives
    { ready 0x0200 [(0x0010, 0xC1)] [0x24, 0x10] with a := 0x01 }
    (fun t => t.p.toByte == 0xE0 && t.pc == 0x0202 && t.remaining == 2) = true := by decide

/-- V68: BIT abs: A & m = 0. -/
theorem test_bit_v68 : gives
    { ready 0x0200 [(0x0300, 0x40)] [0x2C, 0x00, 0x03] with a := 0x01 }
    (fun t => t.p.toByte == 0x62 && t.pc == 0x0203 && t.remaining == 3) = true := by decide

/-- V82: JSR. -/
theorem test_jsr_v82 : gives
    (ready 0x0200 [] [0x20, 0x00, 0x30])
    (fun t => t.sp == 0xFB && t.pc == 0x3000 &&
      t.byteAt 0x01FC == 0x02 && t.byteAt 0x01FD == 0x02 && t.remaining == 5) = true := by decide

/-- V83: JSR with S = 0x00 (stack wraps). -/
theorem test_jsr_v83 : gives
    { ready 0x0200 [] [0x20, 0x00, 0x30] with sp := 0x00 }
    (fun t => t.sp == 0xFE && t.pc == 0x3000 &&
      t.byteAt 0x0100 == 0x02 && t.byteAt 0x01FF == 0x02 && t.remaining == 5) = true := by decide

/-- V84: RTS. -/
theorem test_rts_v84 : gives
    { ready 0x0200 [(0x01FC, 0x02), (0x01FD, 0x02)] [0x60] with sp := 0xFB }
    (fun t => t.sp == 0xFD && t.pc == 0x0203 && t.remaining == 5) = true := by decide

/-- V85: RTS of 0xFFFF gives 0x0000. -/
theorem test_rts_v85 : gives
    { ready 0x0200 [(0x01FC, 0xFF), (0x01FD, 0xFF)] [0x60] with sp := 0xFB }
    (fun t => t.sp == 0xFD && t.pc == 0x0000 && t.remaining == 5) = true := by decide

/-- V86: RTI. -/
theorem test_rti_v86 : gives
    { ready 0x0200 [(0x01FB, 0xD3), (0x01FC, 0x34), (0x01FD, 0x12)] [0x40] with sp := 0xFA }
    (fun t => t.sp == 0xFD && t.p.toByte == 0xE3 && t.pc == 0x1234 && t.remaining == 5) = true := by decide

/-- V87: RTI of status 0x00. -/
theorem test_rti_v87 : gives
    { ready 0x0200 [(0x01FB, 0x00), (0x01FC, 0x00), (0x01FD, 0x04)] [0x40] with sp := 0xFA, p := flags 0xEF }
    (fun t => t.sp == 0xFD && t.p.toByte == 0x20 && t.pc == 0x0400 && t.remaining == 5) = true := by decide

/-- V88: BRK with I = 0. -/
theorem test_brk_v88 : gives
    (ready 0x0300 [(0xFFFE, 0x00), (0xFFFF, 0x80)] [0x00, 0xEA])
    (fun t => t.sp == 0xFA && t.p.toByte == 0x24 && t.pc == 0x8000 &&
      t.byteAt 0x01FB == 0x30 && t.byteAt 0x01FC == 0x02 && t.byteAt 0x01FD == 0x03 && t.remaining == 6) = true := by decide

/-- V89: BRK with I = 1 (still executed). -/
theorem test_brk_v89 : gives
    { ready 0x0300 [(0xFFFE, 0x00), (0xFFFF, 0x80)] [0x00, 0xEA] with p := flags 0x24 }
    (fun t => t.sp == 0xFA && t.p.toByte == 0x24 && t.pc == 0x8000 &&
      t.byteAt 0x01FB == 0x34 && t.byteAt 0x01FC == 0x02 && t.byteAt 0x01FD == 0x03 && t.remaining == 6) = true := by decide

/-- V90: BPL taken, same page. -/
theorem test_bpl_v90 : gives
    (ready 0x0200 [] [0x10, 0x02])
    (fun t => t.pc == 0x0204 && t.remaining == 2) = true := by decide

/-- V91: BPL not taken. -/
theorem test_bpl_v91 : gives
    { ready 0x0200 [] [0x10, 0x02] with p := flags 0xA0 }
    (fun t => t.p.toByte == 0xA0 && t.pc == 0x0202 && t.remaining == 1) = true := by decide

/-- V92: BMI not taken. -/
theorem test_bmi_v92 : gives
    (ready 0x0200 [] [0x30, 0x02])
    (fun t => t.pc == 0x0202 && t.remaining == 1) = true := by decide

/-- V93: BMI taken backwards across a page. -/
theorem test_bmi_v93 : gives
    { ready 0x0200 [] [0x30, 0xFC] with p := flags 0xA0 }
    (fun t => t.p.toByte == 0xA0 && t.pc == 0x01FE && t.remaining == 3) = true := by decide

/-- V94: BVC taken backwards, other page. -/
theorem test_bvc_v94 : gives
    (ready 0x0100 [] [0x50, 0x80])
    (fun t => t.pc == 0x0082 && t.remaining == 3) = true := by decide

/-- V95: BVS taken, largest forward displacement. -/
theorem test_bvs_v95 : gives
    { ready 0x0000 [] [0x70, 0x7F] with p := flags 0x60 }
    (fun t => t.p.toByte == 0x60 && t.pc == 0x0081 && t.remaining == 2) = true := by decide

/-- V96: BCC to itself. -/
theorem test_bcc_v96 : gives
    (ready 0x0400 [] [0x90, 0xFE])
    (fun t => t.remaining == 2) = true := by decide

/-- V97: BCS taken forwards, other page. -/
theorem test_bcs_v97 : gives
    { ready 0x00F0 [] [0xB0, 0x10] with p := flags 0x21 }
    (fun t => t.p.toByte == 0x21 && t.pc == 0x0102 && t.remaining == 3) = true := by decide

/-- V98: BCS not taken. -/
theorem test_bcs_v98 : gives
    (ready 0x0200 [] [0xB0, 0x10])
    (fun t => t.pc == 0x0202 && t.remaining == 1) = true := by decide

/-- V99: BNE taken backwards, same page. -/
theorem test_bne_v99 : gives
    (ready 0x0010 [] [0xD0, 0xFB])
    (fun t => t.pc == 0x000D && t.remaining == 2) = true := by decide

/-- V100: BNE not taken (Z = 1). -/
theorem test_bne_v100 : gives
    { ready 0x0200 [] [0xD0, 0xFB] with p := flags 0x22 }
    (fun t => t.p.toByte == 0x22 && t.pc == 0x0202 && t.remaining == 1) = true := by decide

/-- V101: BEQ taken, displacement 0. -/
theorem test_beq_v101 : gives
    { ready 0x0010 [] [0xF0, 0x00] with p := flags 0x22 }
    (fun t => t.p.toByte == 0x22 && t.pc == 0x0012 && t.remaining == 2) = true := by decide

/-- V102: BEQ at 0xFFF0 taken past 0xFFFF, wraps to page 0. -/
theorem test_beq_v102 : gives
    { ready 0xFFF0 [] [0xF0, 0x20] with p := flags 0x22 }
    (fun t => t.p.toByte == 0x22 && t.pc == 0x0012 && t.remaining == 3) = true := by decide

/-- V104: LDX #$FF. -/
theorem test_ldx_v104 : gives
    (ready 0x0200 [] [0xA2, 0xFF])
    (fun t => t.x == 0xFF && t.p.toByte == 0xA0 && t.pc == 0x0202 && t.remaining == 1) = true := by decide

/-- V105: LDY #$00. -/
theorem test_ldy_v105 : gives
    { ready 0x0200 [] [0xA0, 0x00] with y := 0x12 }
    (fun t => t.y == 0x00 && t.p.toByte == 0x22 && t.pc == 0x0202 && t.remaining == 1) = true := by decide

/-- V106: LDY ABX page crossed (+1). -/
theorem test_ldy_v106 : gives
    { ready 0x0200 [(0x0100, 0x11)] [0xBC, 0x80, 0x00] with x := 0x80 }
    (fun t => t.y == 0x11 && t.pc == 0x0203 && t.remaining == 4) = true := by decide

/-- V108: STX zp. -/
theorem test_stx_v108 : gives
    { ready 0x0200 [] [0x86, 0x10] with x := 0x42 }
    (fun t => t.pc == 0x0202 && t.byteAt 0x0010 == 0x42 && t.remaining == 2) = true := by decide

/-- V109: STX ZPY wraps. -/
theorem test_stx_v109 : gives
    { ready 0x0200 [] [0x96, 0xFF] with x := 0x42, y := 0x02 }
    (fun t => t.pc == 0x0202 && t.byteAt 0x0001 == 0x42 && t.remaining == 3) = true := by decide

/-- V110: STY abs. -/
theorem test_sty_v110 : gives
    { ready 0x0200 [] [0x8C, 0x34, 0x12] with y := 0x07 }
    (fun t => t.pc == 0x0203 && t.byteAt 0x1234 == 0x07 && t.remaining == 3) = true := by decide

/-- V111: STY ZPX wraps. -/
theorem test_sty_v111 : gives
    { ready 0x0200 [] [0x94, 0x80] with x := 0x80, y := 0x07 }
    (fun t => t.pc == 0x0202 && t.byteAt 0x0000 == 0x07 && t.remaining == 3) = true := by decide

/-- V112: TAX of 0x80. -/
theorem test_tax_v112 : gives
    { ready 0x0200 [] [0xAA] with a := 0x80 }
    (fun t => t.x == 0x80 && t.p.toByte == 0xA0 && t.pc == 0x0201 && t.remaining == 1) = true := by decide

/-- V113: TAY of 0x00. -/
theorem test_tay_v113 : gives
    { ready 0x0200 [] [0xA8] with y := 0x09 }
    (fun t => t.y == 0x00 && t.p.toByte == 0x22 && t.pc == 0x0201 && t.remaining == 1) = true := by decide

/-- V114: TXA of 0xFF. -/
theorem test_txa_v114 : gives
    { ready 0x0200 [] [0x8A] with x := 0xFF }
    (fun t => t.a == 0xFF && t.p.toByte == 0xA0 && t.pc == 0x0201 && t.remaining == 1) = true := by decide

/-- V115: TYA of 0x00. -/
theorem test_tya_v115 : gives
    { ready 0x0200 [] [0x98] with a := 0x33 }
    (fun t => t.a == 0x00 && t.p.toByte == 0x22 && t.pc == 0x0201 && t.remaining == 1) = true := by decide

/-- V116: TSX of S = 0xFD. -/
theorem test_tsx_v116 : gives
    (ready 0x0200 [] [0xBA])
    (fun t => t.x == 0xFD && t.p.toByte == 0xA0 && t.pc == 0x0201 && t.remaining == 1) = true := by decide

/-- V117: TXS of 0x00 sets no flag. -/
theorem test_txs_v117 : gives
    { ready 0x0200 [] [0x9A] with x := 0x00, p := flags 0xA0 }
    (fun t => t.sp == 0x00 && t.p.toByte == 0xA0 && t.pc == 0x0201 && t.remaining == 1) = true := by decide

/-- V119: PHA at S = 0x00 wraps. -/
theorem test_pha_v119 : gives
    { ready 0x0200 [] [0x48] with a := 0x55, sp := 0x00 }
    (fun t => t.sp == 0xFF && t.pc == 0x0201 && t.byteAt 0x0100 == 0x55 && t.remaining == 2) = true := by decide

/-- V120: PHP pushes bits 4 and 5 set. -/
theorem test_php_v120 : gives
    { ready 0x0200 [] [0x08] with p := flags 0x21 }
    (fun t => t.sp == 0xFC && t.p.toByte == 0x21 &&
      t.pc == 0x0201 && t.byteAt 0x01FD == 0x31 && t.remaining == 2) = true := by decide

/-- V121: PLA of 0x00. -/
theorem test_pla_v121 : gives
    { ready 0x0200 [(0x01FD, 0x00)] [0x68] with a := 0x55, sp := 0xFC }
    (fun t => t.a == 0x00 && t.sp == 0xFD &&
      t.p.toByte == 0x22 && t.pc == 0x0201 && t.remaining == 3) = true := by decide

/-- V122: PLA at S = 0xFF wraps. -/
theorem test_pla_v122 : gives
    { ready 0x0200 [(0x0100, 0x80)] [0x68] with sp := 0xFF }
    (fun t => t.a == 0x80 && t.sp == 0x00 &&
      t.p.toByte == 0xA0 && t.pc == 0x0201 && t.remaining == 3) = true := by decide

/-- V123: PLP of 0xFF (bit 4 ignored). -/
theorem test_plp_v123 : gives
    { ready 0x0200 [(0x01FD, 0xFF)] [0x28] with sp := 0xFC }
    (fun t => t.sp == 0xFD && t.p.toByte == 0xEF && t.pc == 0x0201 && t.remaining == 3) = true := by decide

/-- V124: PLP of 0x00 (U forced). -/
theorem test_plp_v124 : gives
    { ready 0x0200 [(0x01FD, 0x00)] [0x28] with sp := 0xFC, p := flags 0xE7 }
    (fun t => t.sp == 0xFD && t.p.toByte == 0x20 && t.pc == 0x0201 && t.remaining == 3) = true := by decide

/-- V125: CLC. -/
theorem test_clc_v125 : gives
    { ready 0x0200 [] [0x18] with p := flags 0x21 }
    (fun t => t.p.toByte == 0x20 && t.pc == 0x0201 && t.remaining == 1) = true := by decide

/-- V126: SEC. -/
theorem test_sec_v126 : gives
    (ready 0x0200 [] [0x38])
    (fun t => t.p.toByte == 0x21 && t.pc == 0x0201 && t.remaining == 1) = true := by decide

/-- V127: CLI. -/
theorem test_cli_v127 : gives
    { ready 0x0200 [] [0x58] with p := flags 0x24 }
    (fun t => t.p.toByte == 0x20 && t.pc == 0x0201 && t.remaining == 1) = true := by decide

/-- V128: SEI. -/
theorem test_sei_v128 : gives
    (ready 0x0200 [] [0x78])
    (fun t => t.p.toByte == 0x24 && t.pc == 0x0201 && t.remaining == 1) = true := by decide

/-- V129: CLD. -/
theorem test_cld_v129 : gives
    { ready 0x0200 [] [0xD8] with p := flags 0x28 }
    (fun t => t.p.toByte == 0x20 && t.pc == 0x0201 && t.remaining == 1) = true := by decide

/-- V130: SED. -/
theorem test_sed_v130 : gives
    (ready 0x0200 [] [0xF8])
    (fun t => t.p.toByte == 0x28 && t.pc == 0x0201 && t.remaining == 1) = true := by decide

/-- V131: CLV. -/
theorem test_clv_v131 : gives
    { ready 0x0200 [] [0xB8] with p := flags 0x60 }
    (fun t => t.p.toByte == 0x20 && t.pc == 0x0201 && t.remaining == 1) = true := by decide

/-- V132: NOP. -/
theorem test_nop_v132 : gives
    (ready 0x0200 [] [0xEA])
    (fun t => t.pc == 0x0201 && t.remaining == 1) = true := by decide

/-- V133: illegal 0x02 (a jam byte on NMOS) is a 2-cycle no-op. -/
theorem test_xxx_v133 : gives
    (ready 0x0200 [] [0x02])
    (fun t => t.pc == 0x0201 && t.remaining == 1) = true := by decide

/-- V134: illegal 0x03: 8 cycles, 1 byte, A untouched. -/
theorem test_xxx_v134 : gives
    { ready 0x0200 [] [0x03, 0xFF] with a := 0x12 }
    (fun t => t.pc == 0x0201 && t.remaining == 7) = true := by decide

/-- V139: nmi() at Idle. -/
theorem test_nmi_v139 : gives
    { ready 0x1234 [(0xFFFA, 0x00), (0xFFFB, 0x90)] [] with p := flags 0x21, host := [.nmi] }
    (fun t => t.sp == 0xFA && t.p.toByte == 0x25 && t.pc == 0x9000 &&
      t.byteAt 0x01FB == 0x21 && t.byteAt 0x01FC == 0x34 && t.byteAt 0x01FD == 0x12 && t.remaining == 7) = true := by decide

/-- V140: nmi() with I = 1 (still taken). -/
theorem test_nmi_v140 : gives
    { ready 0x1234 [(0xFFFA, 0x00), (0xFFFB, 0x90)] [] with p := flags 0x24, host := [.nmi] }
    (fun t => t.sp == 0xFA && t.p.toByte == 0x24 && t.pc == 0x9000 &&
      t.byteAt 0x01FB == 0x24 && t.byteAt 0x01FC == 0x34 && t.byteAt 0x01FD == 0x12 && t.remaining == 7) = true := by decide

/-- V141: irq() with I = 1 is ignored. -/
theorem test_irq_v141 : gives
    { ready 0x0400 [(0xFFFE, 0x00), (0xFFFF, 0xC0)] [] with p := flags 0x24, host := [.irq] }
    (fun t => t.p.toByte == 0x24 && t.remaining == 0) = true := by decide

/-- V142: irq() with I = 0. -/
theorem test_irq_v142 : gives
    { ready 0x0400 [(0xFFFE, 0x00), (0xFFFF, 0xC0)] [] with sp := 0xFF, p := flags 0x20, host := [.irq] }
    (fun t => t.sp == 0xFC && t.p.toByte == 0x24 && t.pc == 0xC000 &&
      t.byteAt 0x01FD == 0x20 && t.byteAt 0x01FF == 0x04 && t.remaining == 7) = true := by decide

/-- V143: irq() with S = 0x01 (stack wraps). -/
theorem test_irq_v143 : gives
    { ready 0x0400 [(0xFFFE, 0x00), (0xFFFF, 0xC0)] [] with sp := 0x01, p := flags 0xE3, host := [.irq] }
    (fun t => t.sp == 0xFE && t.p.toByte == 0xE7 && t.pc == 0xC000 &&
      t.byteAt 0x0101 == 0x04 && t.byteAt 0x01FF == 0xE3 && t.remaining == 7) = true := by decide

/-- V144: fault: LDA abs at 0x7FFF, first operand byte at 0x8000. -/
theorem test_lda_v144 : stops
    { ready 0x7FFF [] [0xAD] with cfg := bus8000 }
    (.addressingFault 0x8000) = true := by decide

/-- V145: fault: STA $9000. -/
theorem test_sta_v145 : stops
    { ready 0x0200 [] [0x8D, 0x00, 0x90] with a := 0x01, cfg := bus8000 }
    (.addressingFault 0x9000) = true := by decide

/-- V146: fault: opcode fetch at 0x8000. -/
theorem test_step_v146 : stops
    { ready 0x8000 [] [] with cfg := bus8000 }
    (.addressingFault 0x8000) = true := by decide

/-- V147: fault: PHA with MEM_SIZE = 0x0100 (stack page out of range). -/
theorem test_pha_v147 : stops
    { ready 0x0000 [] [0x48] with a := 0x01, cfg := bus0100 }
    (.addressingFault 0x01FD) = true := by decide

/-- V148: reset() from an arbitrary state. -/
theorem test_reset_v148 : gives
    { ready 0x4321 [(0xFFFC, 0x00), (0xFFFD, 0x80)] [] with
      a := 0x12, x := 0x34, y := 0x56, sp := 0x10, p := flags 0xEF, host := [.reset] }
    (fun t => t.a == 0x00 && t.x == 0x00 && t.y == 0x00 &&
      t.sp == 0xFD && t.p.toByte == 0x20 && t.pc == 0x8000 && t.remaining == 7) = true := by decide

/-- V149: reset() vector read out of range. -/
theorem test_reset_v149 : stops
    { ready 0x0200 [] [] with cfg := bus8000, host := [.reset] }
    (.addressingFault 0xFFFC) = true := by decide

/-- A table word placed where the next fetch reads it runs at once: LDX #$5A from the state after RESET. -/
theorem test_withFetchWord_runs : gives (State.reset.withFetchWord 16 0b01011010_10100010)
    (fun t => t.x == 0x5A && t.pc == 0x0002) = true := by decide

/-! ## A witness for every statement with hypotheses -/

/-- A Busy core whose host calls `reset()`. -/
def busyReset : State :=
  { ready 0x4321 [(0xFFFC, 0x00), (0xFFFD, 0x80)] [] with a := 0x12, remaining := 3, host := [.reset] }

theorem witness_ResetEntryLeavesResetState :
    busyReset.fault = none ∧ busyReset.host = [.reset] ∧ busyReset.inBus 0xFFFC = true ∧
      busyReset.inBus 0xFFFD = true := by decide

theorem witness_ResetEntryLeavesResetState_faults :
    { busyReset with cfg := busOf 0xFFFC }.firstOutside [0xFFFC, 0xFFFD] = some 0xFFFC ∧
      { busyReset with cfg := busOf 0xFFFD }.firstOutside [0xFFFC, 0xFFFD] = some 0xFFFD := by decide

theorem witness_ResetStateIsWhatResetLeaves :
    ∃ s : State, s ≠ State.reset ∧ s.fault = none ∧ s.host = [.reset] ∧ s.cfg = Config.standard ∧ s.mem = [] :=
  ⟨{ State.reset with a := 0x55, sp := 0x00, host := [.reset] }, by decide⟩

theorem witness_EveryStepKeepsInvariant :
    (ready 0x0200 [] [0x85, 0xFF]).inv = true ∧
      gives { ready 0x0200 [] [0x85, 0xFF] with a := 0x42 } (fun t => t.byteAt 0x00FF == 0x42) = true := by
  decide

theorem witness_DecodingAnEncodingGivesTheInstruction :
    (Instr.sta (.abx 0xFFFF)).wellFormed = true ∧ (Instr.xxx 0xFF).wellFormed = true ∧
      (Instr.jsr 0x0000).wellFormed = true := by decide

theorem witness_SourceFixedEntriesAreReproduced :
    (ready 0x0200 [] []).inBus 0xFFFF = true ∧ pointersInBus (.izy 0xFF) (ready 0x0200 [] []) = true ∧
      (ready 0x0200 [] []).inBus (effAddr (.izy 0xFF) (ready 0x0200 [] [])) = true := by decide

theorem witness_BaseCyclesByClass :
    ∀ i ∈ ([.ror (.abx 0), .stx (.zpy 0), .lda (.izy 0), .jmp (.ind 0), .jsr 0, .brk, .php, .plp, .xxx 0x02,
      .nop] : List Instr), i.wellFormed = true := by decide

/-- A three-byte instruction whose bytes wrap past 0xFFFF. -/
theorem witness_IdleStepExecutesTheDecodedInstruction :
    let s := ready 0xFFFF [] [0x4C, 0x34, 0x12]
    s.fault = none ∧ s.remaining = 0 ∧ s.host = [] ∧
      decode [s.byteAt s.pc, s.byteAt (s.pc + 1), s.byteAt (s.pc + 2)] = .ok (.jmp (.abs 0x1234), []) ∧
      ∀ k < (Instr.jmp (.abs 0x1234)).length, s.inBus (s.pc + BitVec.ofNat 16 k) = true := by decide

theorem witness_IdleStepExecutesTheDecodedInstruction_listed :
    let s := { ready 0x0200 [] [0xEA] with host := [.clock, .nmi] }
    s.fault = none ∧ s.remaining = 0 ∧ s.host = .clock :: [.nmi] ∧
      decode [s.byteAt s.pc, s.byteAt (s.pc + 1), s.byteAt (s.pc + 2)] = .ok (.nop, [0, 0]) ∧
      ∀ k < Instr.nop.length, s.inBus (s.pc + BitVec.ofNat 16 k) = true := by decide

theorem witness_BusyStepOnlyCountsDown :
    State.reset.fault = none ∧ State.reset.remaining ≠ 0 ∧ State.reset.host = [] ∧
      (State.reset.setHost [.clock]).host = .clock :: [] := by decide

theorem witness_InstructionOccupiesExactlyItsCost :
    let s := ready 0x0200 [] [0x00]
    s.host = [] ∧ s.remaining = 0 ∧ gives s (fun t => decide (6 ≤ t.remaining)) = true := by decide

theorem witness_FaultMarkIsPermanent :
    stops { ready 0x8000 [] [] with cfg := bus8000 } (.addressingFault 0x8000) = true ∧
      ({ ready 0x0200 [] [0xEA] with
        fault := some (.decimalUnmodelled 0x69), host := [.reset] }).fault =
          some (.decimalUnmodelled 0x69) := by decide

theorem witness_FetchOutsideBusFaults_opcode :
    let s := { ready 0x8000 [] [] with cfg := bus8000 }
    s.fault = none ∧ s.host = [] ∧ s.remaining = 0 ∧ s.inBus s.pc = false := by decide

theorem witness_FetchOutsideBusFaults_first :
    let s := { ready 0x7FFF [] [0xA9] with cfg := bus8000 }
    s.fault = none ∧ s.host = [] ∧ s.remaining = 0 ∧ s.inBus s.pc = true ∧
      1 ≤ (descriptor (s.byteAt s.pc)).mode.operandBytes ∧ s.inBus (s.pc + 1) = false := by decide

theorem witness_FetchOutsideBusFaults_second :
    let s := { ready 0x7FFE [] [0xAD] with cfg := bus8000 }
    s.fault = none ∧ s.host = [] ∧ s.remaining = 0 ∧ s.inBus s.pc = true ∧
      (descriptor (s.byteAt s.pc)).mode.operandBytes = 2 ∧ s.inBus (s.pc + 1) = true ∧
      s.inBus (s.pc + 2) = false := by decide

theorem witness_InstructionsFaultOnlyAsTheSpecNames :
    ∃ s s' f f', exec (.lda (.abs 0x8000)) s = .fault f ∧ exec (.adc (.imm 0x01)) s' = .fault f' ∧
      f = .addressingFault 0x8000 ∧ f' = .decimalUnmodelled 0x69 :=
  ⟨{ ready 0x0200 [] [] with cfg := bus8000 }, { ready 0x0200 [] [] with p := flags 0x28 }, _, _, rfl, rfl,
    rfl, rfl⟩

theorem witness_AccessOutsideBusFaultsWithItsAddress_pointer :
    let s := { ready 0x0200 [] [] with cfg := bus8000 }
    (Instr.jmp (.ind 0x7FFF)).wellFormed = true ∧ (Instr.jmp (.ind 0x80FF)).wellFormed = true ∧
      s.firstOutside (pointerReads (Instr.jmp (.ind 0x80FF)).operand s) = some 0x8000 := by decide

theorem witness_AccessOutsideBusFaultsWithItsAddress_operand :
    let i := Instr.sta (.izy 0x40)
    let s := { ready 0x0200 [(0x0040, 0x00), (0x0041, 0x80)] [] with cfg := bus8000 }
    i.wellFormed = true ∧ pointersInBus i.operand s = true ∧ s.inBus (effAddr i.operand s) = false ∧
      i.operand.mode ∉ ([.imp, .imm, .rel] : List Mode) ∧ i.mnemonic ∉ ([.jmp, .jsr] : List Mnemonic) := by
  decide

/-- A core with the given S on a bus of the given number of bytes. -/
def small (size : Nat) (sp : Byte) : State := { ready 0x0000 [] [] with cfg := busOf size, sp := sp }

/-- The first push and the first pull; JSR's second push at S = 0x00; RTS's and RTI's second pull at S = 0xFF
and RTI's third. -/
theorem witness_AccessOutsideBusFaultsWithItsAddress_stack :
    (small 0x0100 0x00).firstOutside [stackAddr 0x00] = some 0x0100 ∧
      (small 0x0100 0xFF).firstOutside [stackAddr (0xFF + 1)] = some 0x0100 ∧
      (small 0x0101 0x00).firstOutside [stackAddr 0x00, stackAddr (0x00 - 1)] = some 0x01FF ∧
      (small 0x0101 0xFF).firstOutside [stackAddr (0xFF + 1), stackAddr (0xFF + 2)] = some 0x0101 ∧
      (small 0x0102 0xFF).firstOutside [stackAddr (0xFF + 1), stackAddr (0xFF + 2), stackAddr (0xFF + 3)] =
        some 0x0102 := by decide

/-- Each of the five accesses of an entry can be the first that the bus lacks: BRK, and `irq()`. -/
theorem witness_AccessOutsideBusFaultsWithItsAddress_brk :
    (small 0x0100 0x00).firstOutside (entryAccesses (small 0x0100 0x00) 0xFFFE) = some 0x0100 ∧
      (small 0x0101 0x00).firstOutside (entryAccesses (small 0x0101 0x00) 0xFFFE) = some 0x01FF ∧
      (small 0x0102 0x01).firstOutside (entryAccesses (small 0x0102 0x01) 0xFFFE) = some 0x01FF ∧
      (small 0xFFFE 0x00).firstOutside (entryAccesses (small 0xFFFE 0x00) 0xFFFE) = some 0xFFFE ∧
      (small 0xFFFF 0x00).firstOutside (entryAccesses (small 0xFFFF 0x00) 0xFFFE) = some 0xFFFF ∧
      entryAccesses (small 0xFFFF 0x00) 0xFFFE =
        [stackAddr 0x00, stackAddr (0x00 - 1), stackAddr (0x00 - 2), 0xFFFE, 0xFFFF] := by decide

theorem witness_EveryPulseOnAFullBusContinues :
    (State.reset.fault = none ∧ State.reset.host = [] ∧ State.reset.cfg.memSize = 65536 ∧ State.reset.p.d = false) ∧
    (let s := { ready 0x0200 [] [0x69] with p := flags 0x28, cfg := decimal .nmos }
     s.fault = none ∧ s.host = [] ∧ s.cfg.memSize = 65536 ∧ s.cfg.decimalMode ≠ .unmodelled) := by decide

theorem witness_ExactlyTermsWithoutEncodingAreRefused :
    (Instr.sta (.imm 0x00)).wellFormed = false ∧ ∃ s r, exec (.sta (.imm 0x00)) s = .refused r :=
  ⟨by decide, State.reset, _, rfl⟩

theorem witness_BusReadsAndWritesOneByte :
    (0x7FFF : Addr).toNat < bus8000.memSize ∧ bus8000.memSize ≤ (0x8000 : Addr).toNat ∧
      (ready 0x0200 [(0x7FFF, 0x01)] []).mem.wf = true := by decide

theorem witness_HostWriteStoresOneBusByte :
    let s := { ready 0x0200 [] [] with cfg := bus8000 }
    s.fault = none ∧ s.inBus 0x7FFF = true ∧ s.inBus 0x8000 = false ∧
      (s.setHost [.writeBus 0x7FFF 0x01]).host = .writeBus 0x7FFF 0x01 :: [] := by decide

theorem witness_PullsReturnPushesInReverse :
    ((List.range 256).map (BitVec.ofNat 8)).length ≤ 256 ∧
      ∀ sp, State.reset.inBus (stackAddr sp) = true := by decide +kernel

theorem witness_UnusedFlagReadsOne :
    (runs .plp (ready 0x0200 [(0x01FE, 0x00)] []) fun _ => true) = true ∧
      (∃ t, resetEntry State.reset = .ok t) ∧
      ∃ t, enterException State.reset 0xFFFA false = .ok t :=
  ⟨by decide, ⟨_, rfl⟩, ⟨_, rfl⟩⟩

theorem witness_PlainModesResolve :
    (∃ p p2 : Addr, p2.toNat = (if p.toNat % 256 = 0xFF then p.toNat - 0xFF else p.toNat + 1) ∧
      p = 0xFFFF ∧ State.reset.inBus p = true ∧ State.reset.inBus p2 = true) ∧
    ∃ p p2 : Addr, p2.toNat = (if p.toNat % 256 = 0xFF then p.toNat - 0xFF else p.toNat + 1) ∧
      p = 0x10FE ∧ State.reset.inBus p = true ∧ State.reset.inBus p2 = true :=
  ⟨⟨0xFFFF, 0xFF00, by decide⟩, ⟨0x10FE, 0x10FF, by decide⟩⟩

theorem witness_IndexedModesResolve :
    let s := { ready 0x0200 [] [] with x := 0x04 }
    ((0x0003 : Addr).toNat = ((0xFF : Byte).toNat + s.x.toNat) % 256 ∧
      (0x0004 : Addr).toNat = ((0xFF : Byte).toNat + s.x.toNat + 1) % 256 ∧
      s.inBus 0x0003 = true ∧ s.inBus 0x0004 = true) ∧
    ((0x00FF : Addr).toNat = (0xFF : Byte).toNat ∧ (0x0000 : Addr).toNat = ((0xFF : Byte).toNat + 1) % 256 ∧
      s.inBus 0x00FF = true ∧ s.inBus 0x0000 = true) := by decide

/-- A state with pointer bytes at the end and the start of page 0. -/
def pointers : State := ready 0x0200 [(0x00FF, 0x34), (0x0000, 0x12)] []

/-- The hypotheses of the statements over an operand: the term is an instruction, and the bus has the bytes. -/
def meets (i : Instr) (s : State) : Bool :=
  i.wellFormed && pointersInBus i.operand s && operandInBus i.operand s

theorem witness_LoadsPutTheOperandInTheirRegister :
    ∀ i ∈ ([.lda (.izy 0xFF), .lda (.imm 0x00), .ldx (.zpy 0x80), .ldy (.abx 0xFFFF)] : List Instr),
      meets i pointers = true := by decide

theorem witness_StoresWriteTheirRegister :
    ∀ i ∈ ([.sta (.izx 0xFF), .sta (.abx 0xFFFF), .stx (.zpy 0x80), .sty (.abs 0x0000)] : List Instr),
      meets i pointers = true := by decide

/-- A state with the given S, for the statements about the stack, which are met at both ends of its range. -/
def withSp (sp : Byte) : State := { ready 0x0200 [] [] with sp := sp }

theorem witness_PhaAndPlaMoveAOnTheStack : ∀ sp ∈ ([0x00, 0xFF] : List Byte),
    (withSp sp).inBus (stackAddr sp) = true ∧ (withSp sp).inBus (stackAddr (sp + 1)) = true := by decide

theorem witness_PhpAndPlpMoveTheStatusOnTheStack : ∀ sp ∈ ([0x00, 0xFF] : List Byte),
    (withSp sp).inBus (stackAddr sp) = true ∧ (withSp sp).inBus (stackAddr (sp + 1)) = true := by decide

theorem witness_JsrAndRtsCallAndReturn : ∀ sp ∈ ([0x00, 0x01, 0xFE, 0xFF] : List Byte),
    (withSp sp).inBus (stackAddr sp) = true ∧ (withSp sp).inBus (stackAddr (sp - 1)) = true ∧
      (withSp sp).inBus (stackAddr (sp + 1)) = true ∧ (withSp sp).inBus (stackAddr (sp + 2)) = true := by
  decide

theorem witness_BrkEntersThroughTheIrqVector : ∀ sp ∈ ([0x00, 0x01, 0x02, 0xFF] : List Byte),
    entryInBus (withSp sp) 0xFFFE = true := by decide

theorem witness_RtiRestoresStatusAndPc : ∀ sp ∈ ([0x00, 0xFD, 0xFE, 0xFF] : List Byte),
    (withSp sp).inBus (stackAddr (sp + 1)) = true ∧ (withSp sp).inBus (stackAddr (sp + 2)) = true ∧
      (withSp sp).inBus (stackAddr (sp + 3)) = true := by decide

theorem witness_ShiftsAndRotatesWriteBack :
    ∀ o ∈ ([.imp, .abx 0xFFFF, .zp 0xFF] : List Operand), meets (.asl o) pointers = true ∧
      meets (.lsr o) pointers = true ∧ meets (.rol o) pointers = true ∧ meets (.ror o) pointers = true := by
  decide

theorem witness_IncAndDecChangeMemoryByOne :
    meets (.inc (.abx 0xFFFF)) pointers = true ∧ meets (.dec (.zp 0xFF)) pointers = true := by decide

theorem witness_LogicCombinesAWithTheOperand :
    ∀ o ∈ ([.imm 0x00, .izx 0xFF, .izy 0xFF] : List Operand), meets (.and o) pointers = true ∧
      meets (.ora o) pointers = true ∧ meets (.eor o) pointers = true := by decide

theorem witness_ComparesSetCarryZeroNegative :
    ∀ i ∈ ([.cmp (.aby 0x0000), .cpx (.imm 0x00), .cpy (.abs 0xFFFF)] : List Instr),
      meets i pointers = true := by decide

theorem witness_BitTestsTheOperandAgainstA : meets (.bit (.abs 0xFFFF)) pointers = true := by decide

theorem witness_AdcAndSbcAddInBinary :
    (meets (.adc (.izy 0xFF)) pointers = true ∧ meets (.sbc (.imm 0x00)) pointers = true ∧
      pointers.p.d = false) ∧
    (let s := { pointers with cfg := decimal .binary, p := flags 0x28 }
     meets (.adc (.izx 0xFF)) s = true ∧ meets (.sbc (.aby 0xFFFF)) s = true ∧ s.p.d = true ∧
       s.cfg.decimalMode = .binary) := by decide

theorem witness_AdcAndSbcFollowTheNmosDecimalRules :
    let s := { ready 0x0200 [] [] with cfg := decimal .nmos, p := flags 0x28 }
    meets (.adc (.imm 0x9A)) s = true ∧ meets (.sbc (.zp 0xFF)) s = true ∧ s.p.d = true ∧
      s.cfg.decimalMode = .nmos := by decide

theorem witness_NmosDecimalIsBcdArithmetic :
    (0x99 : Byte).toNat % 16 ≤ 9 ∧ (0x99 : Byte).toNat / 16 ≤ 9 ∧ (0x00 : Byte).toNat % 16 ≤ 9 := by decide

theorem witness_AdcAndSbcStopWhenDecimalIsUnmodelled :
    let s := { ready 0x0200 [] [] with cfg := bus8000, p := flags 0x28 }
    (Instr.sbc (.imm 0x01)).opcode = some 0xE9 ∧ pointersInBus (.imm 0x01) s = true ∧ s.p.d = true ∧
      s.cfg.decimalMode = .unmodelled ∧ operandInBus (.imm 0x01) s = true ∧
      (Instr.adc (.abs 0x8000)).opcode = some 0x6D ∧ pointersInBus (.abs 0x8000) s = true ∧
      operandInBus (.abs 0x8000) s = false := by decide

/-- The SBC runs from the state the ADC leaves with its carry set since, as SEC would. -/
theorem witness_AdcThenSbcLaw :
    meets (.adc (.izy 0xFF)) pointers = true ∧ pointers.addsInBinary ∧
      (runs (.adc (.izy 0xFF)) pointers fun t =>
        let u := t.setP { t.p with c := true }
        u.a == t.a && decide u.addsInBinary && meets (.sbc (.abs 0x1234)) u &&
          operandValue (.abs 0x1234) u == operandValue (.izy 0xFF) pointers) = true := by decide

theorem witness_JmpLoadsPc :
    (0x1000 : Addr).toNat =
        (if (0x10FF : Addr).toNat % 256 = 0xFF then (0x10FF : Addr).toNat - 0xFF else (0x10FF : Addr).toNat + 1) ∧
      State.reset.inBus 0x10FF = true ∧ State.reset.inBus 0x1000 = true := by decide

theorem witness_IllegalOpcodesOnlyPass :
    (Instr.xxx 0xFF).wellFormed = true ∧ (0x02, 2) ∈ illegalCounts ∧ (0xFF, 7) ∈ illegalCounts := by decide

theorem witness_NmiEntersThroughItsVector :
    let s := { ready 0x1234 [] [] with host := [.nmi], p := flags 0x24, sp := 0x01 }
    s.fault = none ∧ s.remaining = 0 ∧ s.host = .nmi :: [] ∧ entryInBus s 0xFFFA = true := by decide

theorem witness_IrqEntersOnlyWhenEnabled :
    (let s := { ready 0x1234 [] [] with host := [.irq], p := flags 0x24 }
     s.fault = none ∧ s.remaining = 0 ∧ s.host = .irq :: [] ∧ s.p.i = true) ∧
    (let s := { ready 0x1234 [] [] with host := [.irq], sp := 0x00 }
     s.fault = none ∧ s.remaining = 0 ∧ s.host = .irq :: [] ∧ s.p.i = false ∧ entryInBus s 0xFFFE = true) := by
  decide

/-- The first and the last access of each interrupt call as the first that the bus lacks. -/
theorem witness_interrupt_faults :
    (small 0x0100 0x00).firstOutside (entryAccesses (small 0x0100 0x00) 0xFFFA) = some 0x0100 ∧
      (small 0xFFFB 0x00).firstOutside (entryAccesses (small 0xFFFB 0x00) 0xFFFA) = some 0xFFFB ∧
      (small 0xFFFF 0x00).firstOutside (entryAccesses (small 0xFFFF 0x00) 0xFFFE) = some 0xFFFF ∧
      (small 0xFFFF 0x00).fault = none ∧ (small 0xFFFF 0x00).remaining = 0 ∧
      (small 0xFFFF 0x00).p.i = false := by decide

theorem witness_InterruptCallsWhileBusyHaveNoMove :
    State.reset.fault = none ∧ State.reset.remaining ≠ 0 ∧ (State.reset.setHost [.nmi]).host = .nmi :: [] ∧
      (State.reset.setHost [.irq]).host = .irq :: [] ∧ State.reset.host = [] ∧
      (State.reset.setHost [.clock]).host = .clock :: [] ∧ (State.reset.setHost [.reset]).host = .reset :: [] := by
  decide

/-- An entry, and a handler that has changed registers and bytes outside the stack page since. -/
theorem witness_RtiUndoesAnEntry :
    ∃ t u : State, enterException { ready 0x1234 [] [] with p := flags 0xE3, sp := 0x01 } 0xFFFE true = .ok t ∧
      u = (t.setA 0x77).setPc 0x9000 ∧ u.sp = t.sp ∧ u.cfg = t.cfg ∧
      ∀ sp, u.byteAt (stackAddr sp) = t.byteAt (stackAddr sp) :=
  ⟨_, _, rfl, rfl, rfl, rfl, fun _ => rfl⟩

theorem witness_InstructionsLeaveHostAndParameters :
    ∃ t, exec (.lda (.imm 0x01)) { ready 0x0200 [] [] with host := [.nmi] } = .next t := ⟨_, rfl⟩

theorem witness_OnlyStoringInstructionsWriteTheBus :
    (∃ t, exec .rti State.reset = .next t) ∧ storesToBus .rti = false ∧
      (∃ t, exec (.asl .imp) State.reset = .next t) ∧ storesToBus (.asl .imp) = false :=
  ⟨⟨_, rfl⟩, rfl, ⟨_, rfl⟩, rfl⟩

/-- An instruction that changes each register the statement speaks of. -/
theorem witness_RegistersAreWrittenOnlyByTheirWriters :
    (runs (.rol .imp) { ready 0x0200 [] [] with a := 0x40 } fun t => t.a != 0x40) = true ∧
      (runs .dex (ready 0x0200 [] []) fun t => t.x != 0x00) = true ∧
      (runs .iny (ready 0x0200 [] []) fun t => t.y != 0x00) = true ∧
      (runs .txs (ready 0x0200 [] []) fun t => t.sp != 0xFD) = true := by decide

/-- An instruction that changes each flag the statement speaks of, and a state with B clear. -/
theorem witness_FlagsAreWrittenOnlyByTheirWriters :
    (runs .sec (ready 0x0200 [] []) fun t => t.p.c) = true ∧
      (runs (.lda (.imm 0x00)) (ready 0x0200 [] []) fun t => t.p.z) = true ∧
      (runs .dex (ready 0x0200 [] []) fun t => t.p.n) = true ∧
      (runs .sei (ready 0x0200 [] []) fun t => t.p.i) = true ∧
      (runs .sed (ready 0x0200 [] []) fun t => t.p.d) = true ∧
      (runs (.bit (.zp 0x10)) (ready 0x0200 [(0x0010, 0x40)] []) fun t => t.p.v) = true ∧
      (ready 0x0200 [] []).p.b = false := by decide

theorem witness_DecimalFlagIsReadOnlyByItsReaders :
    Instr.pha.mnemonic ∉ ([.adc, .sbc, .php, .brk] : List Mnemonic) ∧ ∃ t, exec .pha State.reset = .next t :=
  ⟨by decide, _, rfl⟩

end Sys2Proof.Machine
end

/-! PROOFS. The Unused bit (R28). -/

namespace Sys2Proof.Machine

open Sys2Proof

/-- The Unused flag is bit 5 of the status byte (R27): its weight is 32, the flags below sum to less than that,
and the two flags above weigh multiples of 64. -/
theorem Status.toByte_getLsbD_five (p : Status) : p.toByte.getLsbD 5 = p.u := by
  have hc := p.c.toNat_lt
  have hz := p.z.toNat_lt
  have hi := p.i.toNat_lt
  have hd := p.d.toNat_lt
  have hb := p.b.toNat_lt
  rw [Status.toByte, BitVec.getLsbD_ofNat, Nat.testBit_eq_decide_div_mod_eq]
  cases p.u with
  | false => simp; omega
  | true => simp; omega

/-- Whoever pushes the status, the byte has the Unused bit set (R28). -/
theorem Status.pushed_getLsbD_five (p : Status) (break_ : Bool) : (p.pushed break_).getLsbD 5 = true :=
  Status.toByte_getLsbD_five _

/-- Every executing pulse ends by forcing U (R131), whatever its operation did to the status. -/
theorem pulse_next_u {i : Instr} {s t : State} {op : State → Except Fault Done}
    (h : pulse i s op = .next t) : t.p.u = true := by
  obtain ⟨c, r, -, -, -, rfl⟩ := pulse_eq_next.1 h
  rw [State.endPulse_p]

/-- U is set after every instruction (R28), each of which is one executing pulse. -/
theorem exec_next_u {i : Instr} {s t : State} (h : exec i s = .next t) : t.p.u = true := by
  obtain ⟨op, hop⟩ := exec_is_pulse i
  rw [hop] at h
  exact pulse_next_u h

theorem resetEntry_ok_u {s t : State} (h : resetEntry s = .ok t) : t.p.u = true := by
  obtain ⟨-, -, rfl⟩ := resetEntry_eq_ok.1 h
  rfl

theorem enterException_ok_u {s t : State} {vector : Addr} {break_ : Bool}
    (h : enterException s vector break_ = .ok t) : t.p.u = true := by
  obtain ⟨-, rfl⟩ := enterException_eq_ok.1 h
  rw [State.setPc_p, State.entered_p]

/-- Settles O24: every pulse ends by setting U, a pushed status has bit 5 from the forced U, and SetP, RESET and
the entry sequence write U = 1 themselves. -/
theorem unusedFlagReadsOne : Obligations.UnusedFlagReadsOne :=
  ⟨fun _ _ _ => exec_next_u, Status.pushed_getLsbD_five, fun _ => rfl, fun _ _ => resetEntry_ok_u,
    fun _ _ _ _ => enterException_ok_u⟩

end Sys2Proof.Machine

/-! PROOFS. The four entries of the opcode map that the source fixes (R86). -/

namespace Sys2Proof.Machine

open Sys2Proof

/-- An operation without a page-crossing cycle costs its base count in every mode (R134). -/
@[simp] theorem costOf_false (i : Instr) (s : State) : costOf i false s = i.baseCycles := by
  simp [costOf]

/-- A mode that crosses no page costs the base count of its instruction (R134). -/
theorem costOf_of_not_pageCrossed {i : Instr} {s : State} (ox : Bool) (h : pageCrossed i.operand s = false) :
    costOf i ox s = i.baseCycles := by
  simp [costOf, h]

/-- The executing pulse of an instruction is the first of the pulses it costs (R135). -/
theorem exec_next_remaining {i : Instr} {s t : State} {cost n : Nat}
    (h : exec i s = .next (t.endPulse cost)) (hcost : cost = n + 1) :
    ∃ t, exec i s = .next t ∧ t.remaining + 1 = n + 1 :=
  ⟨_, h, by rw [State.endPulse_remaining, hcost, Nat.add_sub_cancel]⟩

theorem exec_lda_eq_pulse (o : Operand) (s : State) :
    exec (.lda o) s = pulse (.lda o) s (readOp o true fun s m => s.putA (withZN s.p m)) := rfl

theorem exec_sta_eq_pulse (o : Operand) (s : State) :
    exec (.sta o) s = pulse (.sta o) s (storeOp fun s => s.a) := rfl

theorem exec_jmp_eq_pulse (o : Operand) (s : State) :
    exec (.jmp o) s = pulse (.jmp o) s (registerOp fun s => s.setPc s.addrAbs) := rfl

/-- R87 leaves the immediate cell of STA empty. -/
theorem sta_mode_ne_imm {o : Operand} {c : Byte} (hc : (Instr.sta o).opcode = some c) : o.mode ≠ .imm := by
  intro hm
  rw [Instr.opcode, hm] at hc
  cases hc

/-- A store costs its base count wherever its byte is on the bus, whether or not a page is crossed (R263). -/
theorem exec_sta_remaining {o : Operand} {s : State} {c : Byte} {n : Nat} (hc : (Instr.sta o).opcode = some c)
    (hn : (Instr.sta o).baseCycles = n + 1) (hp : pointersInBus o s = true)
    (ho : s.inBus (effAddr o s) = true) : ∃ t, exec (.sta o) s = .next t ∧ t.remaining + 1 = n + 1 :=
  exec_next_remaining ((exec_sta_eq_pulse o s).trans (pulse_storeOp _ hc hp (sta_mode_ne_imm hc) ho))
    ((costOf_false _ s).trans hn)

/-- Settles O7: the decodes are rows of the opcode map; the immediate mode and JMP have no page-crossing cycle,
and a store owes none in any mode, (zp),Y included, so each cost is the base count of its entry. -/
theorem sourceFixedEntriesAreReproduced : Obligations.SourceFixedEntriesAreReproduced := by
  refine ⟨fun _ _ => rfl, fun v s => ?ldaImm, fun _ _ _ => rfl, fun w s hw => ?staAbs, fun _ _ _ => rfl,
    fun w s => ?jmpAbs, fun _ _ => rfl, fun z s hp hb => ?staIzy⟩
  case ldaImm =>
    exact exec_next_remaining ((exec_lda_eq_pulse (.imm v) s).trans (pulse_readOp _ rfl rfl rfl))
      (costOf_of_not_pageCrossed true rfl)
  case staAbs => exact exec_sta_remaining (o := .abs w) rfl rfl rfl hw
  case jmpAbs =>
    exact exec_next_remaining ((exec_jmp_eq_pulse (.abs w) s).trans (pulse_registerOp _ rfl rfl))
      (costOf_false _ s)
  case staIzy => exact exec_sta_remaining (o := .izy z) rfl rfl hp hb

end Sys2Proof.Machine

/-! PROOFS. The read-modify-write family (R160 to R170). First what any instruction's proof needs: the cells of an
opcode row, the flags as numbers, and the boundary view of the states a pulse builds. -/

namespace Sys2Proof.Machine

open Sys2Proof

/-! ## The cells of a row of R87 -/

theorem lookup_map_eq_find? (cells : List (Mode × Byte × Nat)) (m : Mode) :
    (cells.map fun r => (r.1, r.2.1)).lookup m = (cells.find? fun r => r.1 = m).map fun r => r.2.1 := by
  induction cells with
  | nil => rfl
  | cons r cells ih =>
    rw [List.map_cons, List.lookup_cons, List.find?_cons, ih]
    by_cases h : r.1 = m
    · simp [h]
    · simp [h, beq_false_of_ne (Ne.symm h)]

/-- A rule's cells are those of R87 when the opcodes are looked up among them and R85 has their base counts. -/
theorem encodedAs_of_lookup {mk : Operand → Instr} {cells : List (Mode × Byte × Nat)}
    (hrow : ∀ o, (mk o).opcode = (cells.map fun r => (r.1, r.2.1)).lookup o.mode)
    (hcycles : ∀ r ∈ cells, (descriptor r.2.1).cycles = r.2.2) : EncodedAs mk cells := by
  intro o
  have ho := hrow o
  rw [lookup_map_eq_find?] at ho
  split
  next r hr =>
    rw [hr] at ho
    exact ⟨ho, (baseCycles_of_opcode ho).trans (hcycles r (List.mem_of_find?_eq_some hr))⟩
  next hnone => rwa [hnone] at ho

/-- The mode of an instruction is one its mnemonic has. -/
theorem mode_mem_modes_of_wellFormed {i : Instr} (h : i.wellFormed = true) : i.operand.mode ∈ i.modes := by
  rw [Instr.wellFormed, Bool.and_eq_true] at h
  exact List.contains_iff_mem.1 h.1

theorem Operand.eq_imp_of_mode {o : Operand} (h : o.mode = .imp) : o = .imp := by
  cases o with
  | imp => rfl
  | _ => cases h

/-! ## Bits and flags as numbers -/

theorem getLsbD_seven_eq_decide (m : Byte) : m.getLsbD 7 = decide (128 ≤ m.toNat) := by
  rw [← BitVec.msb_eq_getLsbD_last, BitVec.msb_eq_decide]

theorem getLsbD_zero_eq_decide (m : Byte) : m.getLsbD 0 = decide (m.toNat % 2 = 1) :=
  Nat.testBit_zero m.toNat

@[simp] theorem Status.setZN_z (p : Status) (v : Byte) : (p.setZN v).z = decide (v.toNat = 0) := by
  simp [Status.setZN, BitVec.toNat_eq, Bool.beq_eq_decide_eq]

@[simp] theorem Status.setZN_n (p : Status) (v : Byte) : (p.setZN v).n = decide (128 ≤ v.toNat) :=
  getLsbD_seven_eq_decide v

theorem ofNat_mod_256 (n : Nat) : BitVec.ofNat 8 (n % 256) = BitVec.ofNat 8 n :=
  BitVec.eq_of_toNat_eq (by simp)

theorem shiftLeft_eq_withZN (p : Status) (m : Byte) :
    shiftLeft p m = withZN { p with c := decide (128 ≤ m.toNat) } (BitVec.ofNat 8 (m.toNat * 2 % 256)) := by
  rw [shiftLeft, getLsbD_seven_eq_decide, ofNat_mod_256]

theorem shiftRight_eq_withZN (p : Status) (m : Byte) :
    shiftRight p m = withZN { p with c := decide (m.toNat % 2 = 1) } (BitVec.ofNat 8 (m.toNat / 2)) := by
  rw [shiftRight, getLsbD_zero_eq_decide]

theorem rotateLeft_eq_withZN (p : Status) (m : Byte) :
    rotateLeft p m = withZN { p with c := decide (128 ≤ m.toNat) }
      (BitVec.ofNat 8 ((m.toNat * 2 + p.c.toNat) % 256)) := by
  rw [rotateLeft, getLsbD_seven_eq_decide, ofNat_mod_256]

theorem rotateRight_eq_withZN (p : Status) (m : Byte) :
    rotateRight p m = withZN { p with c := decide (m.toNat % 2 = 1) }
      (BitVec.ofNat 8 (p.c.toNat * 128 + m.toNat / 2)) := by
  rw [rotateRight, getLsbD_zero_eq_decide]

theorem increment_eq_withZN (p : Status) (m : Byte) :
    increment p m = withZN p (BitVec.ofNat 8 ((m.toNat + 1) % 256)) :=
  congrArg (withZN p) (BitVec.eq_of_toNat_eq (by simp))

theorem decrement_eq_withZN (p : Status) (m : Byte) :
    decrement p m = withZN p (BitVec.ofNat 8 ((m.toNat + 255) % 256)) :=
  congrArg (withZN p) (BitVec.eq_of_toNat_eq (by simp))

/-! ## The boundary view of the states a pulse builds -/

theorem State.boundary_setFetched (s : State) (v : Byte) : (s.setFetched v).boundary = s.boundary := rfl

theorem State.boundary_wrote (s : State) (addr : Addr) (v : Byte) : (s.wrote addr v).boundary = s.boundary := rfl

theorem State.boundary_setP (s : State) (q : Status) : (s.setP q).boundary = { s.boundary with p := q } := rfl

theorem State.boundary_setA (s : State) (v : Byte) : (s.setA v).boundary = { s.boundary with a := v } := rfl

theorem State.boundary_putX (s : State) (r : Result) :
    (s.putX r).boundary = { s.boundary with x := r.value, p := r.status } := rfl

theorem State.boundary_putY (s : State) (r : Result) :
    (s.putY r).boundary = { s.boundary with y := r.value, p := r.status } := rfl

theorem State.boundary_atOperation (s : State) (i : Instr) (c : Byte) :
    (s.atOperation i c).boundary =
      { s.boundary with pc := s.pc + BitVec.ofNat 16 i.length, p := { s.p with u := true } } := by
  simp [State.boundary]

/-- A pulse that ends after SetZN (R29) has Z and N of the result, and U set (R131). -/
theorem State.boundary_endPulse_of_setZN {t : State} {q : Status} {r : Byte} (h : t.p = q.setZN r) (cost : Nat) :
    (t.endPulse cost).boundary = { t.boundary with p := znOf q r, remaining := cost - 1 } := by
  simp [State.boundary, h, znOf]

/-! ## The operations of the family -/

/-- The modes in which R87 has a read-modify-write on a byte of the bus. -/
def modifyModes : List Mode := [.zp, .zpx, .abs, .abx]

/-- R160 in the implied mode: the result goes back to A, with Z and N over the status `q` the operation sets. -/
theorem completes_modifyOp_imp {i : Instr} {s : State} {c : Byte} {f : Status → Byte → Result} {q : Status}
    {r : Byte} (he : exec i s = pulse i s (modifyOp i.operand f)) (hc : i.opcode = some c)
    (hi : i.operand = .imp) (hf : f { s.p with u := true } s.a = withZN { q with u := true } r) :
    Completes i s { s.passed i false with a := r, p := znOf q r } s.bus := by
  have hnext := he.trans (pulse_modifyOp_imp f hc hi)
  rw [hf] at hnext
  refine ⟨_, hnext, ?boundary, fun k => by simp [State.bus]⟩
  rw [State.boundary_endPulse_of_setZN rfl, State.boundary_setA, State.boundary_setP,
    State.boundary_setFetched, State.boundary_atOperation]
  rfl

/-- R160 on the bus: the result goes back to the byte at the effective address. -/
theorem completes_modifyOp_mem {i : Instr} {s : State} {c : Byte} {f : Status → Byte → Result} {q : Status}
    {r : Byte} (he : exec i s = pulse i s (modifyOp i.operand f)) (hc : i.opcode = some c)
    (hmode : i.operand.mode ∈ modifyModes) (ho : operandInBus i.operand s = true)
    (hf : f { s.p with u := true } (s.byteAt (effAddr i.operand s)) = withZN { q with u := true } r) :
    Completes i s { s.passed i false with p := znOf q r } (storeAt s.bus (effAddr i.operand s) r) := by
  have hne (m : Mode) (hm : m ∉ modifyModes) : i.operand.mode ≠ m := ne_of_mem_of_not_mem hmode hm
  have himp := hne .imp (by decide)
  have himm := hne .imm (by decide)
  have hp := pointersInBus_of_mode (hne .ind (by decide)) (hne .izx (by decide)) (hne .izy (by decide)) s
  rw [operandInBus_of_bus himp himm] at ho
  have hnext := he.trans (pulse_modifyOp_mem f hc hp himp himm ho)
  rw [operandValue_of_bus himp himm, hf] at hnext
  refine ⟨_, hnext, ?boundary, fun k => by simp [Memory.read_write, storeAt, State.bus]⟩
  rw [State.boundary_endPulse_of_setZN rfl, State.boundary_wrote, State.boundary_setP,
    State.boundary_setFetched, State.boundary_atOperation]
  rfl

/-- R160: the result goes back where the operand came from. -/
theorem completes_modifyOp {i : Instr} {s : State} {f : Status → Byte → Result} {q : Status} {r : Byte}
    (he : exec i s = pulse i s (modifyOp i.operand f)) (hw : i.wellFormed = true)
    (hmodes : i.modes = .imp :: modifyModes) (ho : operandInBus i.operand s = true)
    (hf : f { s.p with u := true } (operandValue i.operand s) = withZN { q with u := true } r) :
    Completes i s
      { s.passed i false with a := if i.operand.mode = .imp then r else s.a, p := znOf q r }
      (if i.operand.mode = .imp then s.bus else storeAt s.bus (effAddr i.operand s) r) := by
  obtain ⟨c, hc⟩ := opcode_of_wellFormed hw
  have hmode := mode_mem_modes_of_wellFormed hw
  rw [hmodes, List.mem_cons] at hmode
  rcases hmode with himp | hmem
  · have hi := Operand.eq_imp_of_mode himp
    rw [if_pos himp, if_pos himp]
    rw [hi] at hf
    exact completes_modifyOp_imp he hc hi hf
  · have himp : i.operand.mode ≠ .imp := ne_of_mem_of_not_mem hmem (by decide)
    have himm : i.operand.mode ≠ .imm := ne_of_mem_of_not_mem hmem (by decide)
    rw [if_neg himp, if_neg himp]
    rw [operandValue_of_bus himp himm] at hf
    exact completes_modifyOp_mem he hc hmem ho hf

/-- An operation that leaves a result in X with its Z and N. -/
theorem completes_putX {i : Instr} {s : State} {c : Byte} {f : Status → Byte → Result} {q : Status} {r : Byte}
    (he : exec i s = pulse i s (registerOp fun s => s.putX (f s.p s.x))) (hc : i.opcode = some c)
    (hi : i.operand = .imp) (hf : f { s.p with u := true } s.x = withZN { q with u := true } r) :
    Completes i s { s.passed i false with x := r, p := znOf q r } s.bus := by
  have hnext := he.trans (pulse_registerOp _ hc (by rw [hi]; rfl))
  rw [State.atOperation_p, State.atOperation_x, hf] at hnext
  refine ⟨_, hnext, ?boundary, fun k => by simp [State.bus]⟩
  rw [State.boundary_endPulse_of_setZN rfl, State.boundary_putX, State.boundary_atOperation]
  rfl

/-- An operation that leaves a result in Y with its Z and N. -/
theorem completes_putY {i : Instr} {s : State} {c : Byte} {f : Status → Byte → Result} {q : Status} {r : Byte}
    (he : exec i s = pulse i s (registerOp fun s => s.putY (f s.p s.y))) (hc : i.opcode = some c)
    (hi : i.operand = .imp) (hf : f { s.p with u := true } s.y = withZN { q with u := true } r) :
    Completes i s { s.passed i false with y := r, p := znOf q r } s.bus := by
  have hnext := he.trans (pulse_registerOp _ hc (by rw [hi]; rfl))
  rw [State.atOperation_p, State.atOperation_y, hf] at hnext
  refine ⟨_, hnext, ?boundary, fun k => by simp [State.bus]⟩
  rw [State.boundary_endPulse_of_setZN rfl, State.boundary_putY, State.boundary_atOperation]
  rfl

/-! ## The obligations -/

/-- Settles O33: each shift and rotate is one read-modify-write on A or on the bus byte, with the result and the
carry of its flag computation. -/
theorem shiftsAndRotatesWriteBack : Obligations.ShiftsAndRotatesWriteBack := by
  refine ⟨encodedAs_of_lookup (fun _ => rfl) (by decide), encodedAs_of_lookup (fun _ => rfl) (by decide),
    encodedAs_of_lookup (fun _ => rfl) (by decide), encodedAs_of_lookup (fun _ => rfl) (by decide),
    fun o s ho => ⟨fun hw => ?asl, fun hw => ?lsr, fun hw => ?rol, fun hw => ?ror⟩⟩
  case asl => exact completes_modifyOp (f := shiftLeft) rfl hw rfl ho (shiftLeft_eq_withZN _ _)
  case lsr => exact completes_modifyOp (f := shiftRight) rfl hw rfl ho (shiftRight_eq_withZN _ _)
  case rol => exact completes_modifyOp (f := rotateLeft) rfl hw rfl ho (rotateLeft_eq_withZN _ _)
  case ror => exact completes_modifyOp (f := rotateRight) rfl hw rfl ho (rotateRight_eq_withZN _ _)

/-- Settles O34: INC and DEC have no implied mode, so their result goes back to the bus byte it was read from. -/
theorem incAndDecChangeMemoryByOne : Obligations.IncAndDecChangeMemoryByOne := by
  refine ⟨encodedAs_of_lookup (fun _ => rfl) (by decide), encodedAs_of_lookup (fun _ => rfl) (by decide),
    fun o s ho => ⟨fun hw => ?inc, fun hw => ?dec⟩⟩
  case inc =>
    obtain ⟨c, hc⟩ := opcode_of_wellFormed hw
    exact completes_modifyOp_mem (f := increment) rfl hc (mode_mem_modes_of_wellFormed hw) ho
      (increment_eq_withZN _ _)
  case dec =>
    obtain ⟨c, hc⟩ := opcode_of_wellFormed hw
    exact completes_modifyOp_mem (f := decrement) rfl hc (mode_mem_modes_of_wellFormed hw) ho
      (decrement_eq_withZN _ _)

/-- Settles O35: each is one register operation, the sum with 1 or with 255 being the step up or down mod 256. -/
theorem indexIncrementsAndDecrements : Obligations.IndexIncrementsAndDecrements := by
  refine ⟨⟨rfl, rfl, rfl⟩, ⟨rfl, rfl, rfl⟩, ⟨rfl, rfl, rfl⟩, ⟨rfl, rfl, rfl⟩,
    fun s => ⟨?inx, ?iny, ?dex, ?dey⟩⟩
  case inx => exact completes_putX (f := increment) rfl rfl rfl (increment_eq_withZN _ _)
  case iny => exact completes_putY (f := increment) rfl rfl rfl (increment_eq_withZN _ _)
  case dex => exact completes_putX (f := decrement) rfl rfl rfl (decrement_eq_withZN _ _)
  case dey => exact completes_putY (f := decrement) rfl rfl rfl (decrement_eq_withZN _ _)

end Sys2Proof.Machine

/-! PROOFS. The logic family and the NMOS decimal rules (R194 to R196, R201 to R203). First what ADC, SBC and the
logic instructions share: they leave a result in A. Then the adder's flags and the nibbles as numbers. -/

namespace Sys2Proof.Machine

open Sys2Proof

/-! ## Instructions that leave a result in A -/

/-- An operation that leaves a result in A has changed A and P and no byte of the bus. -/
theorem completes_putA {i : Instr} {s : State} {c v : Byte} {ox : Bool} {r : Result}
    {op : State → Except Fault Done} (he : exec i s = pulse i s op) (hc : i.opcode = some c)
    (hp : pointersInBus i.operand s = true)
    (hr : op (s.atOperation i c) = .ok ⟨((s.atOperation i c).setFetched v).putA r, ox, 0⟩) :
    Completes i s { s.passed i ox with a := r.value, p := { r.status with u := true } } s.bus :=
  completes_of_done he hc hp hr (by simp [State.boundary, State.passed]) (fun k => by simp [State.bus])

/-- R114: an operation on the operand's value gets it where the bus has the operand. -/
theorem readOp_atOperation {i : Instr} {s : State} {c : Byte} (ox : Bool) (f : State → Byte → State)
    (ho : operandInBus i.operand s = true) :
    readOp i.operand ox f (s.atOperation i c) =
      .ok ⟨f ((s.atOperation i c).setFetched (operandValue i.operand s)) (operandValue i.operand s), ox, 0⟩ := by
  rw [readOp, fetchOperand_atOperation ho]
  rfl

theorem Status.setZN_eq (p : Status) (v : Byte) :
    p.setZN v = { p with z := decide (v.toNat = 0), n := decide (128 ≤ v.toNat) } := by
  rw [← Status.setZN_z p, ← Status.setZN_n p, Status.setZN]

/-- SetZN (R29) in a pulse, which has set U before it and sets it again after (R131). -/
theorem Status.setZN_eq_znOf (p : Status) (v : Byte) :
    { ({ p with u := true } : Status).setZN v with u := true } = znOf p v := by
  rw [Status.setZN_eq, znOf]

/-- R194 to R196: the result of A and the operand goes to A, with its Z and N. -/
theorem completes_readOp_putA {i : Instr} {s : State} {g : Byte → Byte → Byte}
    (he : exec i s = pulse i s (readOp i.operand true fun s m => s.putA (withZN s.p (g s.a m))))
    (hw : i.wellFormed = true) (hp : pointersInBus i.operand s = true)
    (ho : operandInBus i.operand s = true) :
    Completes i s
      { s.passed i true with
        a := g s.a (operandValue i.operand s), p := znOf s.p (g s.a (operandValue i.operand s)) } s.bus := by
  obtain ⟨c, hc⟩ := opcode_of_wellFormed hw
  have h := completes_putA he hc hp (readOp_atOperation true _ ho)
  rwa [State.setFetched_p, State.setFetched_a, State.atOperation_p, State.atOperation_a, withZN_status,
    Status.setZN_eq_znOf] at h

/-- R191: with D = 1 and DECIMAL_MODE nmos, ADC and SBC leave what their decimal computation `g` answers. -/
theorem completes_addOrSubtract_nmos {i : Instr} {s : State} {f g : Status → Byte → Byte → Result}
    (he : exec i s = pulse i s (addOrSubtract i.operand f g)) (hw : i.wellFormed = true)
    (hp : pointersInBus i.operand s = true) (ho : operandInBus i.operand s = true)
    (hd : s.p.d = true) (hm : s.cfg.decimalMode = .nmos) :
    Completes i s
      { s.passed i true with
        a := (g { s.p with u := true } s.a (operandValue i.operand s)).value
        p := { (g { s.p with u := true } s.a (operandValue i.operand s)).status with u := true } } s.bus := by
  obtain ⟨c, hc⟩ := opcode_of_wellFormed hw
  refine completes_putA (v := operandValue i.operand s) he hc hp ?_
  rw [addOrSubtract, fetchOperand_atOperation ho, ok_bind]
  simp [hd, hm, done]

/-! ## The adder's flags as numbers (R190) -/

/-- R190's V is set where A and the operand have one sign and the result the other; so it is set exactly where the
two's-complement sum leaves its range. -/
theorem getLsbD_overflow (a m : Byte) (c : Bool) :
    ((~~~(a ^^^ m)) &&& (a ^^^ BitVec.ofNat 8 (a.toNat + m.toNat + c.toNat))).getLsbD 7 =
      decide (a.toInt + m.toInt + c.toNat < -128 ∨ 127 < a.toInt + m.toInt + c.toNat) := by
  have signs : ((~~~(a ^^^ m)) &&& (a ^^^ BitVec.ofNat 8 (a.toNat + m.toNat + c.toNat))).getLsbD 7 =
      decide ((128 ≤ a.toNat ↔ 128 ≤ m.toNat) ∧
        ¬(128 ≤ a.toNat ↔ 128 ≤ (a.toNat + m.toNat + c.toNat) % 256)) := by
    rw [BitVec.getLsbD_and, BitVec.getLsbD_not, BitVec.getLsbD_xor, BitVec.getLsbD_xor]
    simp only [getLsbD_seven_eq_decide, BitVec.toNat_ofNat]
    grind
  have hc := c.toNat_lt
  have ha := a.isLt
  have hm := m.isLt
  rw [signs, decide_eq_decide, BitVec.toInt_eq_toNat_cond, BitVec.toInt_eq_toNat_cond]
  split <;> split <;> omega

theorem addBinary_status (p : Status) (a m : Byte) :
    (addBinary p a m).status =
      { p with
        c := decide (255 < a.toNat + m.toNat + p.c.toNat)
        z := decide ((a.toNat + m.toNat + p.c.toNat) % 256 = 0)
        v := decide (a.toInt + m.toInt + p.c.toNat < -128 ∨ 127 < a.toInt + m.toInt + p.c.toNat)
        n := decide (128 ≤ (a.toNat + m.toNat + p.c.toNat) % 256) } := by
  simp only [addBinary, Status.setZN_eq, getLsbD_overflow, BitVec.toNat_ofNat]

theorem toInt_not_eq (m : Byte) : (~~~m).toInt = -m.toInt - 1 := by
  have hm := m.isLt
  rw [BitVec.toInt_eq_toNat_cond, BitVec.toInt_eq_toNat_cond, BitVec.toNat_not]
  omega

/-- R193: the flags of a binary SBC, which adds the inverted operand. -/
theorem addBinary_not_status (p : Status) (a m : Byte) :
    (addBinary p a (~~~m)).status =
      { p with
        c := decide (255 < a.toNat + (255 - m.toNat) + p.c.toNat)
        z := decide ((a.toNat + (255 - m.toNat) + p.c.toNat) % 256 = 0)
        v := decide (a.toInt - m.toInt - 1 + p.c.toNat < -128 ∨ 127 < a.toInt - m.toInt - 1 + p.c.toNat)
        n := decide (128 ≤ (a.toNat + (255 - m.toNat) + p.c.toNat) % 256) } := by
  have hsum : a.toInt + (~~~m).toInt = a.toInt - m.toInt - 1 := by
    rw [toInt_not_eq]
    ring
  rw [addBinary_status, hsum, BitVec.toNat_not]

/-! ## The nibbles of a byte as numbers -/

theorem toNat_lowNibble (v : Byte) : (v &&& 0x0F).toNat = v.toNat % 16 := by
  rw [BitVec.toNat_and]
  exact Nat.and_two_pow_sub_one_eq_mod _ 4

theorem toNat_highNibble (v : Byte) : (v &&& 0xF0).toNat = v.toNat - v.toNat % 16 := by
  have hshift : (v &&& 0xF0 : Byte) = v >>> 4 <<< 4 := by
    ext i hi
    interval_cases i <;> simp
  rw [hshift, BitVec.toNat_shiftLeft, BitVec.toNat_ushiftRight, Nat.shiftLeft_eq, Nat.shiftRight_eq_div_pow]
  omega

theorem toInt_highNibble (v : Byte) :
    (v &&& 0xF0).toInt =
      if v.toNat - v.toNat % 16 < 128 then ((v.toNat - v.toNat % 16 : Nat) : Int)
      else ((v.toNat - v.toNat % 16 : Nat) : Int) - 256 := by
  rw [BitVec.toInt_eq_toNat_cond, toNat_highNibble]
  split <;> split <;> omega

theorem ofInt_emod_256 (n : Int) : BitVec.ofInt 8 (n % 256) = BitVec.ofInt 8 n :=
  BitVec.eq_of_toInt_eq (by rw [BitVec.toInt_ofInt, BitVec.toInt_ofInt]; exact Int.emod_bmod n 256)

/-! ## The obligations -/

/-- Settles O36: each is one read of the operand, whose result with A goes to A with its Z and N. -/
theorem logicCombinesAWithTheOperand : Obligations.LogicCombinesAWithTheOperand := by
  refine ⟨encodedAs_of_lookup (fun _ => rfl) (by decide), encodedAs_of_lookup (fun _ => rfl) (by decide),
    encodedAs_of_lookup (fun _ => rfl) (by decide),
    fun o s hp ho => ⟨fun hw => ?and, fun hw => ?ora, fun hw => ?eor⟩⟩
  case and => exact completes_readOp_putA (g := (· &&& ·)) rfl hw hp ho
  case ora => exact completes_readOp_putA (g := (· ||| ·)) rfl hw hp ho
  case eor => exact completes_readOp_putA (g := (· ^^^ ·)) rfl hw hp ho

/-- Settles O40: the decimal arm of ADC and SBC answers R202's and R203's computation, whose nibbles, written there
with masks, are remainders by 16; SBC's flags are those of the binary subtraction. -/
theorem adcAndSbcFollowTheNmosDecimalRules : Obligations.AdcAndSbcFollowTheNmosDecimalRules := by
  refine fun o s hp ho hd hm => ⟨fun hw => ?adc, fun hw => ?sbc⟩
  case adc =>
    have h := completes_addOrSubtract_nmos (i := .adc o) (g := addNmos) rfl hw hp ho hd hm
    simp only [addNmos, toNat_lowNibble, toNat_highNibble, toInt_highNibble,
      Nat.testBit_eq_decide_div_mod_eq] at h
    simp only [ofNat_mod_256]
    exact h
  case sbc =>
    have h := completes_addOrSubtract_nmos (i := .sbc o) (g := subNmos) rfl hw hp ho hd hm
    simp only [subNmos, toNat_lowNibble, toNat_highNibble, addBinary_not_status] at h
    simp only [ofInt_emod_256]
    exact h

/-- Settles O38: BIT reads its operand from the bus in both modes and writes P alone. -/
theorem bitTestsTheOperandAgainstA : Obligations.BitTestsTheOperandAgainstA := by
  refine ⟨encodedAs_of_lookup (fun _ => rfl) (by decide), fun o s hw ho => ?_⟩
  obtain ⟨c, hc⟩ := opcode_of_wellFormed hw
  have hmode : o.mode ∈ [Mode.zp, .abs] := mode_mem_modes_of_wellFormed hw
  have hne (m : Mode) (hm : m ∉ [Mode.zp, .abs]) : o.mode ≠ m := ne_of_mem_of_not_mem hmode hm
  have hp := pointersInBus_of_mode (hne .ind (by decide)) (hne .izx (by decide)) (hne .izy (by decide)) s
  rw [← operandValue_of_bus (hne .imp (by decide)) (hne .imm (by decide))]
  have hop := readOp_atOperation (i := .bit o) (c := c) false (fun s m => s.setP (bitTest s.p s.a m)) ho
  refine completes_of_done rfl hc hp hop ?boundary fun k => by simp [State.bus]
  simp [State.boundary, State.passed, bitTest, Instr.operand, Bool.beq_eq_decide_eq]

end Sys2Proof.Machine

/-! PROOFS. The jumps (R220), whose target is the effective address of their mode. -/

namespace Sys2Proof.Machine

open Sys2Proof

/-- R110: the high byte of an indirect target is read within the pointer's page, so after offset 0xFF comes
offset 0x00 of the same page. -/
theorem cat_hi_lo_add_one_of_toNat {w w2 : Addr}
    (h : w2.toNat = if w.toNat % 256 = 0xFF then w.toNat - 0xFF else w.toNat + 1) :
    cat (hi w) (lo w + 1) = w2 := by
  apply BitVec.eq_of_toNat_eq
  have hone : (1 : Byte).toNat = 1 := rfl
  rw [cat_toNat, hi_toNat, BitVec.toNat_add, lo_toNat, hone, h]
  split <;> omega

/-- An IND operand needs the bus to have its pointer byte and the next one in the pointer's page (R110). -/
theorem pointersInBus_ind (w : Addr) (s : State) :
    pointersInBus (.ind w) s = (s.inBus (cat (hi w) (lo w + 1)) && s.inBus w) := by
  simp [pointersInBus, pointerReads]

/-- R87 leaves the immediate cell of JMP empty. -/
theorem jmp_mode_ne_imm {o : Operand} {c : Byte} (hc : (Instr.jmp o).opcode = some c) : o.mode ≠ .imm := by
  intro hm
  rw [Instr.opcode, hm] at hc
  cases hc

theorem State.boundary_setPc (s : State) (w : Addr) : (s.setPc w).boundary = { s.boundary with pc := w } := rfl

/-- A pulse that ends with U still set leaves the status as its operation left it (R131). -/
theorem State.boundary_endPulse_of_u {t : State} (h : t.p.u = true) (cost : Nat) :
    (t.endPulse cost).boundary = { t.boundary with remaining := cost - 1 } := by
  have hp : { t.p with u := true } = t.p := by rw [← h]
  simp [State.boundary, hp]

/-- R220: JMP puts the effective address of its mode into PC and changes nothing else. -/
theorem completes_jmp {o : Operand} {s : State} {c : Byte} (hc : (Instr.jmp o).opcode = some c)
    (hp : pointersInBus o s = true) :
    Completes (.jmp o) s { s.passed (.jmp o) false with pc := effAddr o s } s.bus := by
  refine ⟨_, (exec_jmp_eq_pulse o s).trans (pulse_registerOp _ hc hp), ?boundary,
    fun k => by simp [State.bus]⟩
  rw [State.boundary_endPulse_of_u (by simp), State.boundary_setPc, State.boundary_atOperation,
    State.atOperation_addrAbs s (.jmp o) c (jmp_mode_ne_imm hc)]
  rfl

/-- Settles O44: the effective address is the operand in ABS, and in IND the word at the pointer, which R110
reads within the pointer's page. -/
theorem jmpLoadsPc : Obligations.JmpLoadsPc := by
  refine ⟨encodedAs_of_lookup (fun _ => rfl) (by decide), fun s w => ⟨?abs, fun w2 hw2 hw hnext => ?ind⟩⟩
  case abs => exact completes_jmp rfl rfl
  case ind =>
    have hpage := cat_hi_lo_add_one_of_toNat hw2
    have hp : pointersInBus (.ind w) s = true := by rw [pointersInBus_ind, hpage, hnext, hw]; rfl
    have h := completes_jmp rfl hp
    rwa [effAddr, hpage] at h

end Sys2Proof.Machine

/-! PROOFS. Loads, stores, transfers and flag instructions (R260 to R271, R276 to R282). First what the family
shares: a byte that goes to a register with its Z and N, the store, and the change of the status alone. -/

namespace Sys2Proof.Machine

open Sys2Proof

/-! ## A byte that goes to a register -/

/-- The boundary view with another A. -/
def Boundary.withA (b : Boundary) (v : Byte) : Boundary := { b with a := v }

/-- The boundary view with another X. -/
def Boundary.withX (b : Boundary) (v : Byte) : Boundary := { b with x := v }

/-- The boundary view with another Y. -/
def Boundary.withY (b : Boundary) (v : Byte) : Boundary := { b with y := v }

/-- `put` writes a result's value where `place` says, and its status, and nothing else a claim may read at the
end of the pulse, which sets U (R131). -/
def PutsInto (put : State → Result → State) (place : Boundary → Byte → Boundary) : Prop :=
  ∀ t r,
    (∀ cost, ((put t r).endPulse cost).boundary =
      { place (t.endPulse cost).boundary r.value with p := { r.status with u := true } }) ∧
    (put t r).mem = t.mem

theorem putsInto_putA : PutsInto State.putA Boundary.withA := fun _ _ => ⟨fun _ => rfl, rfl⟩

theorem putsInto_putX : PutsInto State.putX Boundary.withX := fun _ _ => ⟨fun _ => rfl, rfl⟩

theorem putsInto_putY : PutsInto State.putY Boundary.withY := fun _ _ => ⟨fun _ => rfl, rfl⟩

theorem State.boundary_endPulse (t : State) (cost : Nat) :
    (t.endPulse cost).boundary = { t.boundary with p := { t.p with u := true }, remaining := cost - 1 } := rfl

/-- A pulse whose operation changes nothing leaves the instruction passed. -/
theorem State.boundary_endPulse_atOperation (s : State) (i : Instr) (c : Byte) (ox : Bool) :
    ((s.atOperation i c).endPulse (costOf i ox s)).boundary = s.passed i ox := by
  rw [State.boundary_endPulse, State.boundary_atOperation, State.atOperation_p, State.passed]

section

variable {put : State → Result → State} {place : Boundary → Byte → Boundary}

/-- An operation that ends by putting `v` into a register, with its Z and N (R29). -/
theorem completes_put {i : Instr} {s t : State} {c v : Byte} {ox : Bool} {op : State → Except Fault Done}
    (hput : PutsInto put place) (he : exec i s = pulse i s op) (hc : i.opcode = some c)
    (hp : pointersInBus i.operand s = true)
    (hr : op (s.atOperation i c) = .ok ⟨put t (withZN t.p v), ox, 0⟩)
    (hb : t.boundary = (s.atOperation i c).boundary) (hm : t.mem = (s.atOperation i c).mem) :
    Completes i s { place (s.passed i ox) v with p := znOf s.p v } s.bus := by
  obtain ⟨hboundary, hmem⟩ := hput t (withZN t.p v)
  have htp : t.p = (s.atOperation i c).p := congrArg Boundary.p hb
  refine completes_of_done he hc hp hr ?boundary fun k => ?bus
  case boundary =>
    rw [hboundary, State.boundary_endPulse, hb, htp, ← State.boundary_endPulse,
      State.boundary_endPulse_atOperation, State.atOperation_p, withZN_value, withZN_status,
      Status.setZN_eq_znOf]
  case bus => rw [hmem, hm, State.atOperation_mem, State.bus]

/-- R260 to R262: the operand's value goes to the register. -/
theorem completes_load {i : Instr} {s : State} (hput : PutsInto put place)
    (he : exec i s = pulse i s (readOp i.operand true fun s m => put s (withZN s.p m)))
    (hw : i.wellFormed = true) (hp : pointersInBus i.operand s = true)
    (ho : operandInBus i.operand s = true) :
    Completes i s
      { place (s.passed i true) (operandValue i.operand s) with p := znOf s.p (operandValue i.operand s) }
      s.bus := by
  obtain ⟨c, hc⟩ := opcode_of_wellFormed hw
  exact completes_put hput he hc hp (readOp_atOperation true _ ho) (State.boundary_setFetched _ _) rfl

/-- R266 to R270: the source register, which the mode function leaves as it was, goes to the target register. -/
theorem completes_transfer {i : Instr} {s : State} {c : Byte} {source : State → Byte}
    (hput : PutsInto put place)
    (he : exec i s = pulse i s (registerOp fun s => put s (withZN s.p (source s))))
    (hc : i.opcode = some c) (hi : i.operand = .imp) (hsource : source (s.atOperation i c) = source s) :
    Completes i s { place (s.passed i false) (source s) with p := znOf s.p (source s) } s.bus := by
  have hp : pointersInBus i.operand s = true := by rw [hi]; rfl
  rw [← hsource]
  exact completes_put hput he hc hp rfl rfl rfl

end

/-! ## A store, a change of the status alone, and TXS -/

/-- R263 to R265: a store writes the byte at the effective address alone. The register it stores is one that
the mode function leaves (R132), and no store has the implied or the immediate mode (R87). -/
theorem completes_storeOp {i : Instr} {s : State} {v : State → Byte}
    (he : exec i s = pulse i s (storeOp v)) (hw : i.wellFormed = true)
    (hmodes : ∀ m ∈ i.modes, m ≠ .imp ∧ m ≠ .imm) (hp : pointersInBus i.operand s = true)
    (ho : operandInBus i.operand s = true) (hv : ∀ c, v (s.atOperation i c) = v s) :
    Completes i s (s.passed i false) (storeAt s.bus (effAddr i.operand s) (v s)) := by
  obtain ⟨c, hc⟩ := opcode_of_wellFormed hw
  obtain ⟨himp, himm⟩ := hmodes _ (mode_mem_modes_of_wellFormed hw)
  rw [operandInBus_of_bus himp himm] at ho
  have hnext := he.trans (pulse_storeOp v hc hp himm ho)
  rw [hv] at hnext
  refine ⟨_, hnext, ?boundary, fun k => by simp [Memory.read_write, storeAt, State.bus]⟩
  rw [State.boundary_endPulse_of_u (by simp), State.boundary_wrote, State.boundary_atOperation]
  rfl

/-- R276 to R282: an instruction that changes the status alone. U is set before it and again after (R131). -/
theorem completes_registerOp_setP {i : Instr} {s : State} {c : Byte} {f : Status → Status}
    (he : exec i s = pulse i s (registerOp fun s => s.setP (f s.p))) (hc : i.opcode = some c)
    (hi : i.operand = .imp) :
    Completes i s { s.passed i false with p := { f { s.p with u := true } with u := true } } s.bus := by
  have hp : pointersInBus i.operand s = true := by rw [hi]; rfl
  refine completes_of_done he hc hp rfl ?boundary fun k => by simp [State.bus]
  simp [State.boundary, State.passed]

theorem State.boundary_setSp (s : State) (v : Byte) : (s.setSp v).boundary = { s.boundary with sp := v } := rfl

/-- R271: TXS moves X to S and leaves the status. -/
theorem completes_txs (s : State) : Completes .txs s { s.passed .txs false with sp := s.x } s.bus := by
  refine ⟨_, pulse_registerOp (i := .txs) (fun s => s.setSp s.x) rfl rfl, ?boundary,
    fun k => by simp [State.bus]⟩
  rw [State.boundary_endPulse_of_u (by simp), State.boundary_setSp, State.boundary_atOperation,
    State.atOperation_x]
  rfl

/-! ## The obligations -/

/-- Settles O27: each load reads its operand, whose value goes to the register with its Z and N. -/
theorem loadsPutTheOperandInTheirRegister : Obligations.LoadsPutTheOperandInTheirRegister := by
  refine ⟨encodedAs_of_lookup (fun _ => rfl) (by decide), encodedAs_of_lookup (fun _ => rfl) (by decide),
    encodedAs_of_lookup (fun _ => rfl) (by decide),
    fun o s hp ho => ⟨fun hw => ?lda, fun hw => ?ldx, fun hw => ?ldy⟩⟩
  case lda => exact completes_load putsInto_putA rfl hw hp ho
  case ldx => exact completes_load putsInto_putX rfl hw hp ho
  case ldy => exact completes_load putsInto_putY rfl hw hp ho

/-- Settles O28: each store is one write at the effective address, and owes no page-crossing cycle. -/
theorem storesWriteTheirRegister : Obligations.StoresWriteTheirRegister := by
  refine ⟨encodedAs_of_lookup (fun _ => rfl) (by decide), encodedAs_of_lookup (fun _ => rfl) (by decide),
    encodedAs_of_lookup (fun _ => rfl) (by decide),
    fun o s hp ho => ⟨fun hw => ?sta, fun hw => ?stx, fun hw => ?sty⟩⟩
  case sta =>
    exact completes_storeOp (v := State.a) rfl hw (by simp [Instr.modes]) hp ho (State.atOperation_a s _)
  case stx =>
    exact completes_storeOp (v := State.x) rfl hw (by simp [Instr.modes]) hp ho (State.atOperation_x s _)
  case sty =>
    exact completes_storeOp (v := State.y) rfl hw (by simp [Instr.modes]) hp ho (State.atOperation_y s _)

/-- Settles O29: five transfers end in SetZN of the byte they move; TXS writes S and leaves the status. -/
theorem transfersMoveARegister : Obligations.TransfersMoveARegister := by
  refine ⟨⟨rfl, rfl, rfl⟩, ⟨rfl, rfl, rfl⟩, ⟨rfl, rfl, rfl⟩, ⟨rfl, rfl, rfl⟩, ⟨rfl, rfl, rfl⟩,
    ⟨rfl, rfl, rfl⟩, fun s => ⟨?tax, ?tay, ?txa, ?tya, ?tsx, ?txs⟩⟩
  case tax => exact completes_transfer (source := State.a) putsInto_putX rfl rfl rfl (State.atOperation_a _ _ _)
  case tay => exact completes_transfer (source := State.a) putsInto_putY rfl rfl rfl (State.atOperation_a _ _ _)
  case txa => exact completes_transfer (source := State.x) putsInto_putA rfl rfl rfl (State.atOperation_x _ _ _)
  case tya => exact completes_transfer (source := State.y) putsInto_putA rfl rfl rfl (State.atOperation_y _ _ _)
  case tsx => exact completes_transfer (source := State.sp) putsInto_putX rfl rfl rfl (State.atOperation_sp _ _ _)
  case txs => exact completes_txs s

/-- Settles O30: each changes the status alone, and in it its own flag. -/
theorem flagInstructionsWriteTheirFlag : Obligations.FlagInstructionsWriteTheirFlag := by
  refine ⟨⟨rfl, rfl, rfl⟩, ⟨rfl, rfl, rfl⟩, ⟨rfl, rfl, rfl⟩, ⟨rfl, rfl, rfl⟩, ⟨rfl, rfl, rfl⟩,
    ⟨rfl, rfl, rfl⟩, ⟨rfl, rfl, rfl⟩, fun s => ⟨?clc, ?sec, ?cli, ?sei, ?cld, ?sed, ?clv⟩⟩
  case clc => exact completes_registerOp_setP (f := fun p => { p with c := false }) rfl rfl rfl
  case sec => exact completes_registerOp_setP (f := fun p => { p with c := true }) rfl rfl rfl
  case cli => exact completes_registerOp_setP (f := fun p => { p with i := false }) rfl rfl rfl
  case sei => exact completes_registerOp_setP (f := fun p => { p with i := true }) rfl rfl rfl
  case cld => exact completes_registerOp_setP (f := fun p => { p with d := false }) rfl rfl rfl
  case sed => exact completes_registerOp_setP (f := fun p => { p with d := true }) rfl rfl rfl
  case clv => exact completes_registerOp_setP (f := fun p => { p with v := false }) rfl rfl rfl

end Sys2Proof.Machine

/-! PROOFS. The no-op (R300). First what the instructions whose operation is empty share. -/

namespace Sys2Proof.Machine

open Sys2Proof

/-- An instruction of implied mode whose operation does nothing leaves what its pulse does around any operation
(R131): PC past it, U set and its remaining pulses owed. -/
theorem completes_of_empty_operation {i : Instr} {s : State} {c : Byte} (he : exec i s = pulse i s fun s => done s)
    (hc : i.opcode = some c) (hi : i.operand = .imp) : Completes i s (s.passed i false) s.bus := by
  have hp : pointersInBus i.operand s = true := by rw [hi]; rfl
  refine completes_of_done he hc hp rfl (State.boundary_endPulse_atOperation s i c false) fun k => ?bus
  rw [State.atOperation_mem, State.bus]

/-- Settles O49: NOP's operation is empty, so its pulse alone acts. -/
theorem nopOnlyPasses : Obligations.NopOnlyPasses :=
  ⟨⟨rfl, rfl, rfl⟩, fun _ => completes_of_empty_operation rfl rfl rfl⟩

end Sys2Proof.Machine

/-! PROOFS. The opcode map (R80 to R88): decoding and encoding undo each other, and `exec` refuses exactly the terms
that the map does not hold. -/

namespace Sys2Proof.Machine

open Sys2Proof

/-- R82: a mode takes its operand field back from the bytes that field is written as. -/
theorem Operand.operandFrom_bytes (o : Operand) : o.mode.operandFrom (o.bytes.getD 0 0) (o.bytes.getD 1 0) = o := by
  cases o <;> simp [Operand.mode, Mode.operandFrom, Operand.bytes]

/-- R82: the operand field of a mode is written as the bytes it was taken from. -/
theorem Mode.bytes_operandFrom (m : Mode) (b1 b2 : Byte) :
    (m.operandFrom b1 b2).bytes = [b1, b2].take m.operandBytes := by
  cases m <;> simp [Mode.operandFrom, Operand.bytes, Mode.operandBytes]

theorem Mode.operandBytes_le_two (m : Mode) : m.operandBytes ≤ 2 := by
  cases m <;> decide

/-- The entry of R85 for an instruction's opcode byte, with its operand bytes, is the instruction. -/
theorem decodeBytes_of_opcode {i : Instr} {c : Byte} (hc : i.opcode = some c) :
    decodeBytes c (i.operand.bytes.getD 0 0) (i.operand.bytes.getD 1 0) = i := by
  obtain ⟨hmnemonic, hmode⟩ := (Laws.OpcodeRow.all i).2 c hc
  rw [decodeBytes, hmnemonic, hmode, Operand.operandFrom_bytes]
  cases i with
  | jsr a => exact congrArg Instr.jsr (cat_hi_lo a)
  | xxx b =>
    rw [Instr.opcode] at hc
    split at hc
    · exact congrArg Instr.xxx (Option.some.inj hc).symm
    · cases hc
  | _ => rfl

/-- The decoder takes as many bytes after the opcode as the mode of its entry has (R80, R81). -/
theorem decode_cons_append {c : Byte} {bs : List Byte} (rest : List Byte)
    (h : bs.length = (descriptor c).mode.operandBytes) :
    decode (c :: (bs ++ rest)) = .ok (decodeBytes c (bs.getD 0 0) (bs.getD 1 0), rest) := by
  match bs, h with
  | [], h | [_], h | [_, _], h => simp [decode, ← h]
  | _ :: _ :: _ :: _, h =>
    have hle := Mode.operandBytes_le_two (descriptor c).mode
    rw [← h, List.length_cons, List.length_cons, List.length_cons] at hle
    omega

/-- Settles O5: the opcode of R87 has an entry of the same operation and mode in R85, and the mode takes the operand
field back from its bytes. -/
theorem decodingAnEncodingGivesTheInstruction : Obligations.DecodingAnEncodingGivesTheInstruction := by
  intro i rest hw
  obtain ⟨c, hc⟩ := opcode_of_wellFormed hw
  have hlength : i.operand.bytes.length = (descriptor c).mode.operandBytes := by
    rw [Operand.bytes_length, ((Laws.OpcodeRow.all i).2 c hc).2]
  rw [encode, hc]
  change decode (c :: (i.operand.bytes ++ rest)) = _
  rw [decode_cons_append rest hlength, decodeBytes_of_opcode hc]

/-- The operand of a decoded instruction is the field its entry's mode takes from the bytes. -/
theorem decodeBytes_operand (c b1 b2 : Byte) :
    (decodeBytes c b1 b2).operand = (descriptor c).mode.operandFrom b1 b2 := by
  have hmode := ((Laws.OpcodeRow.all _).2 c (decodeBytes_opcode c b1 b2)).2
  unfold decodeBytes at hmode ⊢
  cases hm : (descriptor c).mnemonic <;> simp only [hm, Instr.operand, Operand.mode] at hmode ⊢ <;>
    rw [hmode] <;> rfl

/-- Settles O6: the instruction is that of the opcode's entry, and its operand is written as the bytes it took. -/
theorem everyByteDecodesAndEncodesBack : Obligations.EveryByteDecodesAndEncodesBack := by
  intro c b1 b2 rest
  have hle := Mode.operandBytes_le_two (descriptor c).mode
  generalize hn : (descriptor c).mode.operandBytes = n at hle
  have hlength : ([b1, b2].take n).length = (descriptor c).mode.operandBytes := by
    simp [hn, hle]
  have hdecode := decode_cons_append ([b1, b2].drop n ++ rest) hlength
  rw [← List.append_assoc, List.take_append_drop] at hdecode
  refine ⟨_, n + 1, by omega, decodeBytes_wellFormed .., ?length, ?encode, hdecode⟩
  case length => rw [decodeBytes_length, hn, Nat.add_comm]
  case encode =>
    rw [encode, decodeBytes_opcode, decodeBytes_operand, Mode.bytes_operandFrom, hn]
    interval_cases n <;> rfl

/-- Settles O18: a pulse is refused exactly when R87 has no opcode for the term. -/
theorem exactlyTermsWithoutEncodingAreRefused : Obligations.ExactlyTermsWithoutEncodingAreRefused := by
  intro i s
  have hrow := (Laws.OpcodeRow.all i).1
  refine ⟨fun hw => exec_eq_refused.2 ⟨?_, rfl⟩, fun r hr => ?_⟩
  · rwa [hw, eq_comm, Option.isSome_eq_false_iff, Option.isNone_iff_eq_none] at hrow
  · rw [hrow, (exec_eq_refused.1 hr).1]
    rfl

end Sys2Proof.Machine

/-! PROOFS. The operation of each instruction (R132): what its executing pulse runs after the addressing mode. -/

namespace Sys2Proof

open Machine

/-- What `exec` runs between the mode and the end of the pulse (`exec_eq_pulse`). -/
def Instr.operation : Instr → State → Except Fault Done
  | .asl o => modifyOp o shiftLeft
  | .lsr o => modifyOp o shiftRight
  | .rol o => modifyOp o rotateLeft
  | .ror o => modifyOp o rotateRight
  | .inc o => modifyOp o increment
  | .dec o => modifyOp o decrement
  | .inx => registerOp fun s => s.putX (increment s.p s.x)
  | .iny => registerOp fun s => s.putY (increment s.p s.y)
  | .dex => registerOp fun s => s.putX (decrement s.p s.x)
  | .dey => registerOp fun s => s.putY (decrement s.p s.y)
  | .adc o => addOrSubtract o addBinary addNmos
  | .sbc o => addOrSubtract o (fun p a m => addBinary p a (~~~m)) subNmos
  | .and o => readOp o true fun s m => s.putA (withZN s.p (s.a &&& m))
  | .ora o => readOp o true fun s m => s.putA (withZN s.p (s.a ||| m))
  | .eor o => readOp o true fun s m => s.putA (withZN s.p (s.a ^^^ m))
  | .cmp o => readOp o true fun s m => s.setP (compareBytes s.p s.a m)
  | .cpx o => readOp o false fun s m => s.setP (compareBytes s.p s.x m)
  | .cpy o => readOp o false fun s m => s.setP (compareBytes s.p s.y m)
  | .bit o => readOp o false fun s m => s.setP (bitTest s.p s.a m)
  | .jmp _ => registerOp fun s => s.setPc s.addrAbs
  | .jsr _ => fun s => do
    let s ← push16 s (s.pc - 1)
    done (s.setPc s.addrAbs)
  | .rts => fun s => do
    let (w, s) ← pull16 s
    done (s.setPc (w + 1))
  | .rti => fun s => do
    let s ← returnFromException s
    done s
  | .brk => fun s => do
    let s ← enterException (s.setPc (s.pc + 1)) irqVector true
    done (s.setP { s.p with b := false })
  | .bpl _ => branchOp fun p => !p.n
  | .bmi _ => branchOp fun p => p.n
  | .bvc _ => branchOp fun p => !p.v
  | .bvs _ => branchOp fun p => p.v
  | .bcc _ => branchOp fun p => !p.c
  | .bcs _ => branchOp fun p => p.c
  | .bne _ => branchOp fun p => !p.z
  | .beq _ => branchOp fun p => p.z
  | .lda o => readOp o true fun s m => s.putA (withZN s.p m)
  | .ldx o => readOp o true fun s m => s.putX (withZN s.p m)
  | .ldy o => readOp o true fun s m => s.putY (withZN s.p m)
  | .sta _ => storeOp fun s => s.a
  | .stx _ => storeOp fun s => s.x
  | .sty _ => storeOp fun s => s.y
  | .tax => registerOp fun s => s.putX (withZN s.p s.a)
  | .tay => registerOp fun s => s.putY (withZN s.p s.a)
  | .txa => registerOp fun s => s.putA (withZN s.p s.x)
  | .tya => registerOp fun s => s.putA (withZN s.p s.y)
  | .tsx => registerOp fun s => s.putX (withZN s.p s.sp)
  | .txs => registerOp fun s => s.setSp s.x
  | .pha => fun s => do
    let s ← push8 s s.a
    done s
  | .php => fun s => do
    let s := s.setP { s.p with u := true }
    let s ← push8 s (s.p.pushed true)
    done s
  | .pla => fun s => do
    let (v, s) ← pull8 s
    done (s.putA (withZN s.p v))
  | .plp => fun s => do
    let (b, s) ← pull8 s
    done (s.setP (Status.ofPulled b))
  | .clc => registerOp fun s => s.setP { s.p with c := false }
  | .sec => registerOp fun s => s.setP { s.p with c := true }
  | .cli => registerOp fun s => s.setP { s.p with i := false }
  | .sei => registerOp fun s => s.setP { s.p with i := true }
  | .cld => registerOp fun s => s.setP { s.p with d := false }
  | .sed => registerOp fun s => s.setP { s.p with d := true }
  | .clv => registerOp fun s => s.setP { s.p with v := false }
  | .nop | .xxx _ => fun s => done s

end Sys2Proof

namespace Sys2Proof.Machine

open Sys2Proof

/-- Every meaning is one executing pulse around the instruction's operation (R131, R132). -/
theorem exec_eq_pulse (i : Instr) (s : State) : exec i s = pulse i s i.operation := by
  cases i <;> rfl

/-- Every next state of an instruction. -/
theorem exec_eq_next {i : Instr} {s t : State} :
    exec i s = .next t ↔
      ∃ c r, i.opcode = some c ∧ pointersInBus i.operand s = true ∧
        i.operation (s.atOperation i c) = .ok r ∧ t = r.state.endPulse (pulseCost i s r) := by
  rw [exec_eq_pulse, pulse_eq_next]

end Sys2Proof.Machine

/-! PROOFS. The instructions that push and pull (R221 to R224, R272 to R275). First one rule for each: when its
executing pulse answers a next state, and which. -/

namespace Sys2Proof.Machine

open Sys2Proof

/-! ## The rules -/

@[simp] theorem done_eq_ok {s : State} {ox : Bool} {bx : Nat} {r : Done} :
    done s ox bx = .ok r ↔ r = ⟨s, ox, bx⟩ := by
  rw [done, Except.ok.injEq, eq_comm]

/-- The next states of an instruction whose mode reads no pointer. -/
theorem exec_eq_next_iff {i : Instr} {s t : State} {c : Byte} (hc : i.opcode = some c)
    (hp : pointersInBus i.operand s = true) :
    exec i s = .next t ↔
      ∃ r, i.operation (s.atOperation i c) = .ok r ∧ t = r.state.endPulse (pulseCost i s r) := by
  simp [exec_eq_pulse, pulse_eq_next, hc, hp]

/-- An operation starts with U set (R131), so to force it (R273) changes nothing. -/
theorem State.atOperation_setP (s : State) (i : Instr) (c : Byte) :
    (s.atOperation i c).setP { s.p with u := true } = s.atOperation i c := by
  rw [← State.atOperation_p s i c]
  rfl

theorem Status.pushed_of_u (p : Status) (break_ : Bool) :
    ({ p with u := true } : Status).pushed break_ = p.pushed break_ := rfl

/-- An entry's pushes leave a vector above the stack page as it was (R312). -/
theorem State.entered_wordAt (s : State) (break_ : Bool) {vector : Addr} (h : 0x200 ≤ vector.toNat)
    (h' : 0x200 ≤ (vector + 1).toNat) : (s.entered break_).wordAt vector = s.wordAt vector := by
  rw [State.wordAt, State.entered_byteAt_of_page s break_ h, State.entered_byteAt_of_page s break_ h']
  rfl

@[simp] theorem State.setPc_wordAt (s : State) (w addr : Addr) : (s.setPc w).wordAt addr = s.wordAt addr := rfl

theorem State.wordAt_irqVector (s : State) : s.wordAt irqVector = cat (s.byteAt 0xFFFF) (s.byteAt 0xFFFE) := rfl

@[simp] theorem State.atOperation_wordAt (s : State) (i : Instr) (c : Byte) (addr : Addr) :
    (s.atOperation i c).wordAt addr = s.wordAt addr := by
  simp [State.wordAt]

theorem exec_pha_eq_next {s t : State} :
    exec .pha s = .next t ↔
      s.inBus (stackAddr s.sp) = true ∧
        t = ((s.atOperation .pha 0x48).pushed8 s.a).endPulse (Instr.baseCycles .pha) := by
  rw [exec_eq_next_iff rfl rfl]
  simp [Instr.operation, bind_eq_ok, push8_eq_ok, pulseCost_eq_costOf]

theorem exec_php_eq_next {s t : State} :
    exec .php s = .next t ↔
      s.inBus (stackAddr s.sp) = true ∧
        t = ((s.atOperation .php 0x08).pushed8 (s.p.pushed true)).endPulse (Instr.baseCycles .php) := by
  rw [exec_eq_next_iff rfl rfl]
  simp [Instr.operation, bind_eq_ok, push8_eq_ok, pulseCost_eq_costOf, State.atOperation_setP, Status.pushed_of_u]

theorem exec_pla_eq_next {s t : State} :
    exec .pla s = .next t ↔
      s.inBus (stackAddr (s.sp + 1)) = true ∧
        t = ((s.atOperation .pla 0x68).pulled8.putA
          (withZN { s.p with u := true } (s.byteAt (stackAddr (s.sp + 1))))).endPulse (Instr.baseCycles .pla) := by
  rw [exec_eq_next_iff rfl rfl]
  simp [Instr.operation, bind_eq_ok, pull8_eq_ok, pulseCost_eq_costOf, and_assoc]

theorem exec_plp_eq_next {s t : State} :
    exec .plp s = .next t ↔
      s.inBus (stackAddr (s.sp + 1)) = true ∧
        t = ((s.atOperation .plp 0x28).pulled8.setP
          (Status.ofPulled (s.byteAt (stackAddr (s.sp + 1))))).endPulse (Instr.baseCycles .plp) := by
  rw [exec_eq_next_iff rfl rfl]
  simp [Instr.operation, bind_eq_ok, pull8_eq_ok, pulseCost_eq_costOf, and_assoc]

theorem exec_jsr_eq_next {w : Addr} {s t : State} :
    exec (.jsr w) s = .next t ↔
      s.inBus (stackAddr s.sp) = true ∧ s.inBus (stackAddr (s.sp - 1)) = true ∧
        t = ((((s.atOperation (.jsr w) 0x20).pushed8 (hi (s.pc + 2))).pushed8 (lo (s.pc + 2))).setPc w).endPulse
          (Instr.baseCycles (.jsr w)) := by
  rw [exec_eq_next_iff rfl rfl]
  have hlength : (Instr.jsr w).length = 3 := rfl
  have hlast : s.pc + 3#16 - 1#16 = s.pc + 2#16 := by
    rw [add_sub_assoc]
    rfl
  have htarget : (s.atOperation (.jsr w) 32#8).addrAbs = w := s.atOperation_addrAbs _ _ (by rintro ⟨⟩)
  simp [Instr.operation, bind_eq_ok, push16_eq_ok, pulseCost_eq_costOf, and_assoc, hlength, hlast, htarget]

theorem exec_rts_eq_next {s t : State} :
    exec .rts s = .next t ↔
      s.inBus (stackAddr (s.sp + 1)) = true ∧ s.inBus (stackAddr (s.sp + 1 + 1)) = true ∧
        t = ((s.atOperation .rts 0x60).pulled8.pulled8.setPc
          (cat (s.byteAt (stackAddr (s.sp + 1 + 1))) (s.byteAt (stackAddr (s.sp + 1))) + 1)).endPulse
            (Instr.baseCycles .rts) := by
  rw [exec_eq_next_iff rfl rfl]
  simp [Instr.operation, bind_eq_ok, pull16_eq_ok, pulseCost_eq_costOf, and_assoc]

theorem exec_rti_eq_next {s t : State} :
    exec .rti s = .next t ↔
      s.inBus (stackAddr (s.sp + 1)) = true ∧ s.inBus (stackAddr (s.sp + 1 + 1)) = true ∧
        s.inBus (stackAddr (s.sp + 1 + 1 + 1)) = true ∧
        t = (s.atOperation .rti 0x40).returned.endPulse (Instr.baseCycles .rti) := by
  rw [exec_eq_next_iff rfl rfl]
  simp [Instr.operation, bind_eq_ok, returnFromException_eq_ok, pulseCost_eq_costOf, and_assoc]

theorem exec_brk_eq_next {s t : State} :
    exec .brk s = .next t ↔
      entryInBus s irqVector = true ∧
        t = ((((s.atOperation .brk 0x00).setPc (s.pc + 2)).entered true).setPc (s.wordAt irqVector)
          |>.setP { s.p with i := true, b := false, u := true }).endPulse (Instr.baseCycles .brk) := by
  rw [exec_eq_next_iff rfl rfl]
  have hafter : s.pc + BitVec.ofNat 16 (Instr.length .brk) + 1#16 = s.pc + 2#16 := by
    rw [add_assoc]
    rfl
  have hvector (u : State) : (u.entered true).wordAt irqVector = u.wordAt irqVector :=
    u.entered_wordAt true (by decide) (by decide)
  have hbus : entryInBus ((s.atOperation .brk 0#8).setPc (s.pc + 2#16)) irqVector = entryInBus s irqVector := by
    simp [entryInBus]
  simp [Instr.operation, bind_eq_ok, enterException_eq_ok, pulseCost_eq_costOf, hafter, hvector, hbus]

/-! ## The status byte -/

/-- R27: the flags of the status byte from bit 0 up. -/
theorem Status.toByte_bits (p : Status) :
    p.toByte[0] = p.c ∧ p.toByte[1] = p.z ∧ p.toByte[2] = p.i ∧ p.toByte[3] = p.d ∧ p.toByte[4] = p.b ∧
      p.toByte[5] = p.u ∧ p.toByte[6] = p.v ∧ p.toByte[7] = p.n := by
  obtain ⟨c, z, i, d, b, u, v, n⟩ := p
  revert c z i d b u v n
  decide

/-- The status byte is the byte whose bits are the flags (R27). -/
theorem Status.eq_toByte {x : Byte} {p : Status} (h : x[0] = p.c ∧ x[1] = p.z ∧ x[2] = p.i ∧ x[3] = p.d ∧
    x[4] = p.b ∧ x[5] = p.u ∧ x[6] = p.v ∧ x[7] = p.n) : x = p.toByte := by
  have hp := p.toByte_bits
  refine BitVec.eq_of_getElem_eq fun k hk => ?_
  interval_cases k <;> simp only [h, hp]

theorem Status.pushed_true (p : Status) : p.pushed true = p.toByte ||| 0x30 :=
  (Status.eq_toByte (by simp [p.toByte_bits])).symm

theorem Status.pushed_false (p : Status) : p.pushed false = (p.toByte &&& 0xEF) ||| 0x20 :=
  (Status.eq_toByte (by simp [p.toByte_bits])).symm

theorem Status.ofPulled_pushed (p : Status) (break_ : Bool) :
    Status.ofPulled (p.pushed break_) = { p with b := false, u := true } := by
  simp [Status.ofPulled, Status.pushed, Status.toByte_bits]

theorem Status.toByte_ofPulled (b : Byte) : (Status.ofPulled b).toByte = (b &&& 0xCF) ||| 0x20 :=
  (Status.eq_toByte (by simp [Status.ofPulled])).symm

/-! ## The obligations -/

/-- Settles O22: the flags are the bits of the byte, and SetP keeps all of them but bits 4 and 5. -/
theorem statusByteHoldsTheFlags : Obligations.StatusByteHoldsTheFlags :=
  ⟨fun p => by simp [p.toByte_bits], Status.toByte_ofPulled⟩

/-- Settles O23: a byte is its own remainder by 256. -/
theorem setZNWritesZeroAndNegative : Obligations.SetZNWritesZeroAndNegative := by
  intro p v
  rw [Status.setZN_eq, BitVec.msb_eq_decide, Nat.mod_eq_of_lt v.isLt]

/-- Settles O31: by the rules of PHA and PLA, read at the boundary. -/
theorem phaAndPlaMoveAOnTheStack : Obligations.PhaAndPlaMoveAOnTheStack := by
  refine ⟨⟨rfl, rfl, rfl⟩, ⟨rfl, rfl, rfl⟩, fun s => ⟨fun h => ?pha, fun h => ?pla⟩⟩
  case pha =>
    refine ⟨_, exec_pha_eq_next.2 ⟨h, rfl⟩, ?boundary, fun k => ?bus⟩
    case boundary => simp [State.boundary, State.passed]
    case bus => simp [Memory.read_write, storeAt, State.bus]
  case pla =>
    refine ⟨_, exec_pla_eq_next.2 ⟨h, rfl⟩, ?boundary, fun k => by simp [State.bus]⟩
    simp [State.boundary, State.passed, znOf]

/-- Settles O32: by the rules of PHP and PLP; the byte PHP pushes is the status byte with bits 4 and 5 set. -/
theorem phpAndPlpMoveTheStatusOnTheStack : Obligations.PhpAndPlpMoveTheStatusOnTheStack := by
  refine ⟨⟨rfl, rfl, rfl⟩, ⟨rfl, rfl, rfl⟩, fun s => ⟨fun h => ?php, fun h => ?plp⟩⟩
  case php =>
    refine ⟨_, exec_php_eq_next.2 ⟨h, rfl⟩, ?boundary, fun k => ?bus⟩
    case boundary => simp [State.boundary, State.passed]
    case bus => simp [Memory.read_write, storeAt, State.bus, Status.pushed_true]
  case plp =>
    refine ⟨_, exec_plp_eq_next.2 ⟨h, rfl⟩, ?boundary, fun k => by simp [State.bus]⟩
    simp [State.boundary, State.passed, Status.ofPulled]

/-- Settles O45: by the rules of JSR and RTS. -/
theorem jsrAndRtsCallAndReturn : Obligations.JsrAndRtsCallAndReturn := by
  refine ⟨⟨rfl, rfl, rfl⟩, fun s w => ⟨⟨rfl, rfl, rfl⟩, fun h h' => ?jsr, fun h h' => ?rts⟩⟩
  case jsr =>
    refine ⟨_, exec_jsr_eq_next.2 ⟨h, h', rfl⟩, ?boundary, fun k => ?bus⟩
    case boundary => simp [State.boundary, State.passed, sub_sub]
    case bus => simp [Memory.read_write, storeAt, State.bus]
  case rts =>
    have e : s.sp + 1 + 1 = s.sp + 2 := add_assoc ..
    rw [← e] at h' ⊢
    refine ⟨_, exec_rts_eq_next.2 ⟨h, h', rfl⟩, ?boundary, fun k => by simp [State.bus]⟩
    simp [State.boundary, State.passed]

/-- Settles O46: by the rule of BRK, an entry through 0xFFFE from the address two past it. -/
theorem brkEntersThroughTheIrqVector : Obligations.BrkEntersThroughTheIrqVector := by
  refine ⟨⟨rfl, rfl, rfl⟩, fun s h => ?_⟩
  refine ⟨_, exec_brk_eq_next.2 ⟨h, rfl⟩, ?boundary, fun k => ?bus⟩
  case boundary => simp [State.boundary, State.passed, sub_sub, State.wordAt_irqVector]
  case bus =>
    rw [← Status.pushed_true]
    simp [Memory.read_write, storeAt, State.bus, State.entered_mem, Status.pushed_of_u, sub_sub]

/-- Settles O47: by the rule of RTI, three pulls. -/
theorem rtiRestoresStatusAndPc : Obligations.RtiRestoresStatusAndPc := by
  refine ⟨⟨rfl, rfl, rfl⟩, fun s h1 h2 h3 => ?_⟩
  have e2 : s.sp + 1 + 1 = s.sp + 2 := add_assoc ..
  have e3 : s.sp + 2 + 1 = s.sp + 3 := add_assoc ..
  rw [← e3, ← e2] at h3 ⊢
  rw [← e2] at h2
  refine ⟨_, exec_rti_eq_next.2 ⟨h1, h2, h3, rfl⟩, ?boundary, fun k => by simp [State.bus]⟩
  simp [State.boundary, State.passed, Status.ofPulled]

/-- The three bytes of an entry, where the three pulls of RTI find them (R312, R223). -/
theorem State.entered_byteAt_stack (s : State) (break_ : Bool) :
    (s.entered break_).byteAt (stackAddr (s.sp - 1 - 1)) = s.p.pushed break_ ∧
      (s.entered break_).byteAt (stackAddr (s.sp - 1)) = lo s.pc ∧
      (s.entered break_).byteAt (stackAddr s.sp) = hi s.pc := by
  have h1 (x : Byte) : x ≠ x - 1 := by bv_omega
  have h2 : s.sp ≠ s.sp - 1 - 1 := by bv_omega
  simp only [State.entered_byteAt, stackAddr_inj, h1, h2, if_true, if_false, and_self]

/-- Settles O54: RTI pulls the three bytes of the entry, the status byte as SetP reads it. -/
theorem rtiUndoesAnEntry : Obligations.RtiUndoesAnEntry := by
  intro s t u vector break_ h hsp hcfg hbytes
  obtain ⟨hbus, rfl⟩ := enterException_eq_ok.1 h
  obtain ⟨h1, h2, h3, -, -⟩ := entryInBus_iff.1 hbus
  obtain ⟨hstatus, hlow, hhigh⟩ := s.entered_byteAt_stack break_
  have hs1 : u.sp + 1 = s.sp - 1 - 1 := by simp [hsp]
  have hs2 : s.sp - 1 - 1 + 1 = s.sp - 1 := sub_add_cancel _ _
  have hs3 : s.sp - 1 + 1 = s.sp := sub_add_cancel _ _
  have hin := inBus_congr (hcfg.trans (by simp : _ = s.cfg))
  have hrti := exec_rti_eq_next (s := u).2 ⟨by rw [hin, hs1, h3], by rw [hin, hs1, hs2, h2],
    by rw [hin, hs1, hs2, hs3, h1], rfl⟩
  refine ⟨_, hrti, ?p, ?pc, ?sp, by simp, by simp, by simp, fun k => by simp⟩
  case p =>
    simp only [State.endPulse_p, State.returned_p, State.atOperation_sp, State.atOperation_byteAt, hs1, hbytes,
      State.setPc_byteAt, hstatus, Status.ofPulled_pushed]
  case pc =>
    simp only [State.endPulse_pc, State.returned_pc, State.atOperation_sp, State.atOperation_byteAt, hs1, hs2, hs3,
      hbytes, State.setPc_byteAt, hlow, hhigh, cat_hi_lo]
  case sp =>
    simp only [State.endPulse_sp, State.returned_sp, State.atOperation_sp, hs1, hs2, hs3]

end Sys2Proof.Machine

/-! PROOFS. What an instruction may write, and the invariant of a running core (R5, R21 to R36, R43, R62). One frame
holds of every instruction; the statements on single registers, flags and the bus are its fields. -/

namespace Sys2Proof.Machine

open Sys2Proof

/-! ## The frame -/

/-- The bus list is canonical and inside MEM_SIZE (R53). -/
def State.busOk (s : State) : Prop := s.mem.wf = true ∧ s.mem.within s.cfg.memSize = true

theorem State.busOk_of_eq {s t : State} (hm : t.mem = s.mem) (hc : t.cfg = s.cfg) (h : s.busOk) : t.busOk := by
  rwa [State.busOk, hm, hc]

theorem State.wrote_busOk {s : State} {addr : Addr} {v : Byte} (hb : s.inBus addr = true) (h : s.busOk) :
    (s.wrote addr v).busOk :=
  ⟨Memory.write_wf h.1, Memory.write_within h.2 (of_decide_eq_true hb)⟩

theorem State.pushed8_busOk {s : State} {v : Byte} (hb : s.inBus (stackAddr s.sp) = true) (h : s.busOk) :
    (s.pushed8 v).busOk :=
  State.wrote_busOk hb h

theorem State.entered_busOk {s : State} {vector : Addr} (break_ : Bool) (hb : entryInBus s vector = true)
    (h : s.busOk) : (s.entered break_).busOk := by
  obtain ⟨h1, h2, h3, -, -⟩ := entryInBus_iff.1 hb
  exact State.pushed8_busOk (s := ((s.pushed8 (hi s.pc)).pushed8 (lo s.pc)).setP { s.p with u := true }) h3
    (State.pushed8_busOk (s := s.pushed8 (hi s.pc)) h2 (State.pushed8_busOk h1 h))

theorem State.atOperation_busOk {s : State} (i : Instr) (c : Byte) (h : s.busOk) : (s.atOperation i c).busOk :=
  State.busOk_of_eq (s.atOperation_mem i c) (s.atOperation_cfg i c) h

/-- What an instruction that takes `s` to `t` may have written: the parameters, the host's list and the mark are as
they were, the bus keeps its form, and a register, a flag or the bus differs only after one of its writers. -/
structure Frame (i : Instr) (s t : State) : Prop where
  cfg : t.cfg = s.cfg
  host : t.host = s.host
  fault : t.fault = s.fault
  busOk : s.busOk → t.busOk
  mem : storesToBus i = false → t.mem = s.mem
  a : t.a ≠ s.a → i.mnemonic ∈ ([.lda, .txa, .tya, .pla, .adc, .sbc, .and, .ora, .eor] : List Mnemonic) ∨
    (i.operand = .imp ∧ i.mnemonic ∈ ([.asl, .lsr, .rol, .ror] : List Mnemonic))
  x : t.x ≠ s.x → i.mnemonic ∈ ([.ldx, .tax, .tsx, .inx, .dex] : List Mnemonic)
  y : t.y ≠ s.y → i.mnemonic ∈ ([.ldy, .tay, .iny, .dey] : List Mnemonic)
  sp : t.sp ≠ s.sp → i.mnemonic ∈ ([.txs, .pha, .php, .pla, .plp, .jsr, .rts, .rti, .brk] : List Mnemonic)
  cFlag : t.p.c ≠ s.p.c → i.mnemonic ∈ ([.adc, .sbc, .cmp, .cpx, .cpy, .asl, .lsr, .rol, .ror, .clc, .sec, .plp,
    .rti] : List Mnemonic)
  znFlags : (t.p.z ≠ s.p.z ∨ t.p.n ≠ s.p.n) → i.mnemonic ∈ ([.adc, .sbc, .and, .ora, .eor, .cmp, .cpx, .cpy, .asl,
    .lsr, .rol, .ror, .inc, .dec, .inx, .iny, .dex, .dey, .lda, .ldx, .ldy, .tax, .tay, .txa, .tya, .tsx, .pla,
    .bit, .plp, .rti] : List Mnemonic)
  iFlag : t.p.i ≠ s.p.i → i.mnemonic ∈ ([.cli, .sei, .plp, .rti, .brk] : List Mnemonic)
  dFlag : t.p.d ≠ s.p.d → i.mnemonic ∈ ([.cld, .sed, .plp, .rti] : List Mnemonic)
  vFlag : t.p.v ≠ s.p.v → i.mnemonic ∈ ([.adc, .sbc, .bit, .clv, .plp, .rti] : List Mnemonic)
  bFlag : s.p.b = false → t.p.b = false

/-- The frame of an operation is that of its executing pulse, which around it writes PC, U, the cache and
`remaining` alone (R131). -/
theorem Frame.of_operation {i : Instr} {s t : State} {c : Byte} (h : Frame i (s.atOperation i c) t) (cost : Nat) :
    Frame i s (t.endPulse cost) where
  cfg := h.cfg.trans (s.atOperation_cfg i c)
  host := h.host.trans (s.atOperation_host i c)
  fault := h.fault.trans (s.atOperation_fault i c)
  busOk hs := State.busOk_of_eq (t.endPulse_mem cost) (t.endPulse_cfg cost) (h.busOk (State.atOperation_busOk i c hs))
  mem hi := (h.mem hi).trans (s.atOperation_mem i c)
  a := by simpa using h.a
  x := by simpa using h.x
  y := by simpa using h.y
  sp := by simpa using h.sp
  cFlag := by simpa using h.cFlag
  znFlags := by simpa using h.znFlags
  iFlag := by simpa using h.iFlag
  dFlag := by simpa using h.dFlag
  vFlag := by simpa using h.vFlag
  bFlag := by simpa using h.bFlag

/-- The frame of every operation, by its form; and only a branch, of 2 base cycles, answers a branch penalty, of at
most 2 (R138, R225). -/
theorem operation_frame {i : Instr} {s : State} {r : Done} (hw : i.wellFormed = true) (hm : s.mode = i.operand.mode)
    (hr : i.operation s = .ok r) : Frame i s r.state ∧ (r.bx = 0 ∨ (i.baseCycles = 2 ∧ r.bx ≤ 2)) := by
  cases i with
  | asl o | lsr o | rol o | ror o =>
    rw [Instr.operation] at hr
    obtain ⟨v, ⟨himp, rfl⟩ | ⟨himp, hb, rfl⟩⟩ := modifyOp_eq_ok hr
    · have ho : o = .imp := Operand.eq_imp_of_mode (hm.symm.trans himp)
      exact ⟨by constructor <;> simp [Instr.mnemonic, Instr.operand, ho, State.busOk], .inl rfl⟩
    · have ho : o.mode ≠ .imp := fun h => himp (hm.trans h)
      refine ⟨?_, .inl rfl⟩
      constructor
      case busOk => exact fun hs => State.wrote_busOk hb hs
      all_goals simp [Instr.mnemonic, storesToBus, ho]
  | inc o | dec o =>
    rw [Instr.operation] at hr
    obtain ⟨v, ⟨himp, -⟩ | ⟨-, hb, rfl⟩⟩ := modifyOp_eq_ok hr
    · have hmode := mode_mem_modes_of_wellFormed hw
      rw [← hm, himp] at hmode
      exact absurd hmode (by simp [Instr.modes])
    · refine ⟨?_, .inl rfl⟩
      constructor
      case busOk => exact fun hs => State.wrote_busOk hb hs
      all_goals simp [Instr.mnemonic, storesToBus]
  | inx | iny | dex | dey | tax | tay | txa | tya | tsx | txs | clc | sec | cli | sei | cld | sed | clv | nop
  | xxx _ | jmp _ =>
    cases hr
    exact ⟨by constructor <;> simp [Instr.mnemonic, State.busOk], .inl rfl⟩
  | adc o | sbc o =>
    rw [Instr.operation] at hr
    obtain ⟨v, rfl | rfl⟩ := addOrSubtract_eq_ok hr <;>
      exact ⟨by constructor <;> simp [Instr.mnemonic, State.busOk], .inl rfl⟩
  | and o | ora o | eor o | cmp o | cpx o | cpy o | bit o | lda o | ldx o | ldy o =>
    rw [Instr.operation] at hr
    obtain ⟨v, rfl⟩ := readOp_eq_ok hr
    exact ⟨by constructor <;> simp [Instr.mnemonic, State.busOk], .inl rfl⟩
  | sta o | stx o | sty o =>
    obtain ⟨hb, rfl⟩ := storeOp_eq_ok.1 hr
    refine ⟨?_, .inl rfl⟩
    constructor
    case busOk => exact State.wrote_busOk hb
    all_goals simp [Instr.mnemonic, storesToBus]
  | bpl d | bmi d | bvc d | bvs d | bcc d | bcs d | bne d | beq d =>
    rw [Instr.operation] at hr
    obtain ⟨pc, hstate, -, hbx⟩ := branchOp_eq_ok hr
    rw [hstate]
    exact ⟨by constructor <;> simp [Instr.mnemonic, State.busOk], .inr ⟨rfl, hbx⟩⟩
  | pha | php =>
    simp only [Instr.operation, bind_eq_ok, push8_eq_ok, done_eq_ok] at hr
    obtain ⟨_, ⟨hb, rfl⟩, rfl⟩ := hr
    refine ⟨?_, .inl rfl⟩
    constructor
    case busOk => exact State.pushed8_busOk hb
    all_goals simp [Instr.mnemonic, storesToBus]
  | pla | plp =>
    simp only [Instr.operation, bind_eq_ok, Prod.exists, pull8_eq_ok, done_eq_ok] at hr
    obtain ⟨_, _, ⟨-, rfl, rfl⟩, rfl⟩ := hr
    exact ⟨by constructor <;> simp [Instr.mnemonic, State.busOk, Status.ofPulled], .inl rfl⟩
  | jsr w =>
    simp only [Instr.operation, bind_eq_ok, push16_eq_ok, done_eq_ok] at hr
    obtain ⟨_, ⟨hb, hb', rfl⟩, rfl⟩ := hr
    refine ⟨?_, .inl rfl⟩
    constructor
    case busOk => exact fun hs => State.pushed8_busOk (s := s.pushed8 _) hb' (State.pushed8_busOk hb hs)
    all_goals simp [Instr.mnemonic, storesToBus]
  | rts =>
    simp only [Instr.operation, bind_eq_ok, Prod.exists, pull16_eq_ok, done_eq_ok] at hr
    obtain ⟨_, _, ⟨-, -, rfl, rfl⟩, rfl⟩ := hr
    exact ⟨by constructor <;> simp [Instr.mnemonic, State.busOk], .inl rfl⟩
  | rti =>
    simp only [Instr.operation, bind_eq_ok, returnFromException_eq_ok, done_eq_ok] at hr
    obtain ⟨_, ⟨-, -, -, rfl⟩, rfl⟩ := hr
    exact ⟨by constructor <;> simp [Instr.mnemonic, State.busOk, Status.ofPulled], .inl rfl⟩
  | brk =>
    simp only [Instr.operation, bind_eq_ok, enterException_eq_ok, done_eq_ok] at hr
    obtain ⟨_, ⟨hb, rfl⟩, rfl⟩ := hr
    refine ⟨?_, .inl rfl⟩
    constructor
    case busOk => exact State.entered_busOk (s := s.setPc _) true hb
    all_goals simp [Instr.mnemonic, storesToBus]

theorem baseCycles_le_eight (i : Instr) : i.baseCycles ≤ 8 := by
  have key : ∀ c : Byte, (descriptor c).cycles ≤ 8 := by decide +kernel
  rw [Instr.baseCycles]
  split
  next c hc => exact key c
  next => omega

/-- The frame of every instruction; and it owes at most 8 pulses after its own (R43): 8 base cycles and the
page-crossing cycle, or a branch's 2 and its penalty. -/
theorem exec_frame {i : Instr} {s t : State} (h : exec i s = .next t) : Frame i s t ∧ t.remaining ≤ 8 := by
  obtain ⟨c, r, hc, -, hr, rfl⟩ := exec_eq_next.1 h
  have hw : i.wellFormed = true := by rw [(Laws.OpcodeRow.all i).1, hc]; rfl
  obtain ⟨hframe, hbx⟩ := operation_frame hw (s.atOperation_mode i c) hr
  refine ⟨hframe.of_operation _, ?_⟩
  have hbase := baseCycles_le_eight i
  have hcross := (pageCrossed i.operand s && r.ox).toNat_le
  rw [State.endPulse_remaining, pulseCost]
  omega

/-! ## The obligations on single instructions -/

/-- Settles O55: fields of the frame. -/
theorem instructionsLeaveHostAndParameters : Obligations.InstructionsLeaveHostAndParameters := by
  intro i s t h
  obtain ⟨hframe, -⟩ := exec_frame h
  exact ⟨hframe.cfg, hframe.host, hframe.fault⟩

/-- Settles O56: a field of the frame. -/
theorem onlyStoringInstructionsWriteTheBus : Obligations.OnlyStoringInstructionsWriteTheBus :=
  fun _ _ _ h => (exec_frame h).1.mem

/-- Settles O57: fields of the frame. -/
theorem registersAreWrittenOnlyByTheirWriters : Obligations.RegistersAreWrittenOnlyByTheirWriters := by
  intro i s t h
  obtain ⟨hframe, -⟩ := exec_frame h
  exact ⟨hframe.a, hframe.x, hframe.y, hframe.sp⟩

/-- Settles O58: fields of the frame. -/
theorem flagsAreWrittenOnlyByTheirWriters : Obligations.FlagsAreWrittenOnlyByTheirWriters := by
  intro i s t h
  obtain ⟨hframe, -⟩ := exec_frame h
  exact ⟨hframe.cFlag, hframe.znFlags, hframe.iFlag, hframe.dFlag, hframe.vFlag, hframe.bFlag⟩

/-! ## The invariant -/

theorem State.inv_iff {s : State} :
    s.inv = true ↔ s.cfg.wf = true ∧ s.busOk ∧ s.p.u = true ∧ s.p.b = false ∧ s.fault = none ∧
      s.remaining ≤ Config.maxRemaining s.cfg := by
  simp [State.inv, State.busOk, and_assoc]

/-- R43: the cost of an entry point is within the bound. -/
theorem Config.cost_le_maxRemaining (c : Config) :
    c.resetCycles ≤ Config.maxRemaining c ∧ c.nmiCycles ≤ Config.maxRemaining c ∧
      c.irqCycles ≤ Config.maxRemaining c := by
  simp [Config.maxRemaining]

theorem State.busyPulse_inv {s : State} (hs : s.inv = true) : s.busyPulse.inv = true := by
  rw [State.inv_iff] at hs ⊢
  obtain ⟨hcfg, hbus, hU, hB, hfault, hrem⟩ := hs
  exact ⟨hcfg, hbus, hU, hB, hfault, (Nat.sub_le _ _).trans hrem⟩

theorem State.afterReset_inv {s : State} (hs : s.inv = true) : s.afterReset.inv = true := by
  rw [State.inv_iff] at hs ⊢
  obtain ⟨hcfg, hbus, -, -, hfault, -⟩ := hs
  exact ⟨hcfg, hbus, rfl, rfl, hfault, (Config.cost_le_maxRemaining s.cfg).1⟩

theorem State.afterEntry_inv {s : State} {vector : Addr} {cost : Nat} (hs : s.inv = true)
    (hb : entryInBus s vector = true) (hcost : cost ≤ Config.maxRemaining s.cfg) :
    (s.afterEntry vector cost).inv = true := by
  rw [State.inv_iff] at hs ⊢
  obtain ⟨hcfg, hbus, -, hB, hfault, -⟩ := hs
  have hbus' : (s.afterEntry vector cost).busOk :=
    State.busOk_of_eq (s := s.entered false) rfl rfl (State.entered_busOk false hb hbus)
  refine ⟨?_, hbus', ?_⟩ <;> simp [State.afterEntry, hcfg, hB, hfault, hcost]

theorem State.wrote_inv {s : State} {addr : Addr} {v : Byte} (hs : s.inv = true) (hb : s.inBus addr = true) :
    (s.wrote addr v).inv = true := by
  rw [State.inv_iff] at hs ⊢
  obtain ⟨hcfg, hbus, hrest⟩ := hs
  exact ⟨hcfg, State.wrote_busOk hb hbus, hrest⟩

theorem exec_inv {i : Instr} {s t : State} (hs : s.inv = true) (h : exec i s = .next t) : t.inv = true := by
  obtain ⟨hframe, hrem⟩ := exec_frame h
  rw [State.inv_iff] at hs ⊢
  obtain ⟨hcfg, hbus, -, hB, hfault, -⟩ := hs
  rw [hframe.cfg]
  exact ⟨hcfg, hframe.busOk hbus, exec_next_u h, hframe.bFlag hB, hframe.fault.trans hfault,
    hrem.trans (le_max_left 8 _)⟩

/-- Settles O4: a step is an instruction, a Busy pulse, an entry point or a write of the host (`step_eq_next`), and
each keeps the invariant; the call taken off the host's list is not part of it. -/
theorem everyStepKeepsInvariant : Obligations.EveryStepKeepsInvariant := by
  intro s t hs h
  obtain ⟨-, s', rfl, h⟩ := step_eq_next h
  have hs' : (s.setHost s.host.tail).inv = true := hs
  obtain ⟨-, hnmi, hirq⟩ := Config.cost_le_maxRemaining s.cfg
  rcases h with ⟨i, -, -, hexec⟩ | ⟨-, rfl⟩ | ⟨-, -, rfl⟩ | ⟨-, hb, rfl⟩ | ⟨-, -, hb, rfl⟩ | rfl |
    ⟨addr, v, hb, rfl⟩
  · exact exec_inv hs' hexec
  · exact State.busyPulse_inv hs'
  · exact State.afterReset_inv hs'
  · exact State.afterEntry_inv hs' hb hnmi
  · exact State.afterEntry_inv hs' hb hirq
  · exact hs'
  · exact State.wrote_inv hs' hb

end Sys2Proof.Machine

/-! PROOFS. How an instruction stops (R330, R331): every fault is an access outside the bus or the stop of a decimal
ADC or SBC, and which access it is. -/

namespace Sys2Proof.Machine

open Sys2Proof

/-! ## Every fault is an access outside the bus, or decimal -/

/-- The computation stops only at an address that the bus of `s` does not have (R330). -/
def FaultsOutside (s : State) {α : Type} (x : Except Fault α) : Prop :=
  ∀ f, x = .error f → ∃ addr, s.inBus addr = false ∧ f = .addressingFault addr

theorem FaultsOutside.ok (s : State) {α : Type} (a : α) : FaultsOutside s (.ok a) := by
  rintro f ⟨⟩

theorem FaultsOutside.bind {s : State} {α β : Type} {x : Except Fault α} {g : α → Except Fault β}
    (hx : FaultsOutside s x) (hg : ∀ a, x = .ok a → FaultsOutside s (g a)) : FaultsOutside s (x >>= g) := by
  intro f h
  obtain h | ⟨a, ha, h⟩ := bind_eq_error.1 h
  · exact hx f h
  · exact hg a ha f h

/-- What the bus has depends on the parameters alone. -/
theorem FaultsOutside.of_cfg {s t : State} {α : Type} {x : Except Fault α} (hc : t.cfg = s.cfg)
    (hx : FaultsOutside t x) : FaultsOutside s x := by
  simpa only [FaultsOutside, inBus_congr hc] using hx

theorem faultsOutside_memRead (s : State) (addr : Addr) : FaultsOutside s (memRead s addr) :=
  fun _ h => ⟨addr, memRead_eq_error.1 h⟩

theorem faultsOutside_memWrite (s : State) (addr : Addr) (v : Byte) : FaultsOutside s (memWrite s addr v) :=
  fun _ h => ⟨addr, memWrite_eq_error.1 h⟩

theorem faultsOutside_memRead16 (s : State) (addr : Addr) : FaultsOutside s (memRead16 s addr) :=
  (faultsOutside_memRead s addr).bind fun _ _ => (faultsOutside_memRead s (addr + 1)).bind fun _ _ => .ok s _

theorem faultsOutside_push8 (s : State) (v : Byte) : FaultsOutside s (push8 s v) :=
  fun _ h => ⟨_, push8_eq_error.1 h⟩

theorem faultsOutside_pull8 (s : State) : FaultsOutside s (pull8 s) :=
  fun _ h => ⟨_, pull8_eq_error.1 h⟩

theorem faultsOutside_push16 (s : State) (w : Addr) : FaultsOutside s (push16 s w) := by
  refine (faultsOutside_push8 s _).bind fun t ht => ?_
  obtain ⟨-, rfl⟩ := push8_eq_ok.1 ht
  exact (faultsOutside_push8 _ _).of_cfg rfl

theorem faultsOutside_pull16 (s : State) : FaultsOutside s (pull16 s) := by
  refine (faultsOutside_pull8 s).bind fun ⟨l, t⟩ ht => ?_
  obtain ⟨-, -, rfl⟩ := pull8_eq_ok.1 ht
  exact ((faultsOutside_pull8 _).of_cfg rfl).bind fun _ _ => .ok s _

theorem faultsOutside_enterException (s : State) (vector : Addr) (break_ : Bool) :
    FaultsOutside s (enterException s vector break_) := by
  refine (faultsOutside_push16 s _).bind fun t ht => ?_
  obtain ⟨-, -, rfl⟩ := push16_eq_ok.1 ht
  refine FaultsOutside.bind (.of_cfg ?_ (faultsOutside_push8 _ _)) fun u hu => ?_
  · simp
  obtain ⟨-, rfl⟩ := push8_eq_ok.1 hu
  refine FaultsOutside.bind (.of_cfg ?_ (faultsOutside_memRead16 _ _)) fun _ _ => .ok s _
  simp

theorem faultsOutside_returnFromException (s : State) : FaultsOutside s (returnFromException s) := by
  refine (faultsOutside_pull8 s).bind fun ⟨b, t⟩ ht => ?_
  obtain ⟨-, -, rfl⟩ := pull8_eq_ok.1 ht
  exact ((faultsOutside_pull16 _).of_cfg rfl).bind fun _ _ => .ok s _

theorem faultsOutside_fetchOperand (o : Operand) (s : State) : FaultsOutside s (fetchOperand o s) := by
  cases o with
  | imp | imm v => exact .ok s _
  | _ => exact (faultsOutside_memRead s s.addrAbs).bind fun _ _ => .ok s _

theorem faultsOutside_readOp (o : Operand) (ox : Bool) (f : State → Byte → State) (s : State) :
    FaultsOutside s (readOp o ox f s) :=
  (faultsOutside_fetchOperand o s).bind fun _ _ => .ok s _

theorem faultsOutside_modifyOp (o : Operand) (f : Status → Byte → Result) (s : State) :
    FaultsOutside s (modifyOp o f s) := by
  refine (faultsOutside_fetchOperand o s).bind fun t ht => ?_
  obtain ⟨v, rfl⟩ := fetchOperand_eq_ok ht
  refine FaultsOutside.bind ?_ fun _ _ => .ok s _
  rw [writeBack]
  split
  · exact .ok s _
  · exact (faultsOutside_memWrite _ _ _).of_cfg rfl

theorem faultsOutside_storeOp (v : State → Byte) (s : State) : FaultsOutside s (storeOp v s) :=
  (faultsOutside_memWrite s _ _).bind fun _ _ => .ok s _

theorem faultsOutside_branchOp (cond : Status → Bool) (s : State) : FaultsOutside s (branchOp cond s) := by
  rw [branchOp]
  split <;> exact .ok s _

/-- Why an ADC or SBC stops (R191): its operand read, or D = 1 while the parameter is `unmodelled`. -/
theorem addOrSubtract_eq_error {o : Operand} {f g : Status → Byte → Byte → Result} {s : State} {e : Fault}
    (h : addOrSubtract o f g s = .error e) :
    fetchOperand o s = .error e ∨
      (e = .decimalUnmodelled s.opcode ∧ s.p.d = true ∧ s.cfg.decimalMode = .unmodelled) := by
  obtain h | ⟨t, ht, h⟩ := bind_eq_error.1 h
  · exact .inl h
  · obtain ⟨v, rfl⟩ := fetchOperand_eq_ok ht
    split at h
    next hd =>
      split at h
      next hm =>
        cases h
        exact .inr ⟨rfl, hd, hm⟩
      next => cases h
      next => cases h
    next => cases h

/-- Every fault of an operation. -/
theorem operation_eq_error {i : Instr} {s : State} {f : Fault} (h : i.operation s = .error f) :
    (∃ addr, s.inBus addr = false ∧ f = .addressingFault addr) ∨
      (f = .decimalUnmodelled s.opcode ∧ s.p.d = true ∧ s.cfg.decimalMode = .unmodelled ∧
        (i.mnemonic = .adc ∨ i.mnemonic = .sbc)) := by
  cases i with
  | adc o | sbc o =>
    rw [Instr.operation] at h
    obtain h | ⟨hf, hd, hm⟩ := addOrSubtract_eq_error h
    · exact .inl (faultsOutside_fetchOperand o s f h)
    · exact .inr ⟨hf, hd, hm, by simp [Instr.mnemonic]⟩
  | asl o | lsr o | rol o | ror o | inc o | dec o => exact .inl (faultsOutside_modifyOp _ _ s f h)
  | and o | ora o | eor o | cmp o | cpx o | cpy o | bit o | lda o | ldx o | ldy o =>
    rw [Instr.operation] at h
    exact .inl (faultsOutside_readOp _ _ _ s f h)
  | sta o | stx o | sty o => exact .inl (faultsOutside_storeOp _ s f h)
  | bpl d | bmi d | bvc d | bvs d | bcc d | bcs d | bne d | beq d =>
    rw [Instr.operation] at h
    exact .inl (faultsOutside_branchOp _ s f h)
  | jsr w => exact .inl (((faultsOutside_push16 s _).bind fun _ _ => .ok s _) f h)
  | rts => exact .inl (((faultsOutside_pull16 s).bind fun _ _ => .ok s _) f h)
  | rti => exact .inl (((faultsOutside_returnFromException s).bind fun _ _ => .ok s _) f h)
  | brk =>
    have hentry := faultsOutside_enterException (s.setPc (s.pc + 1)) irqVector true
    exact .inl (((FaultsOutside.of_cfg rfl hentry).bind fun _ _ => .ok s _) f h)
  | pha => exact .inl (((faultsOutside_push8 s _).bind fun _ _ => .ok s _) f h)
  | php =>
    have hpush := faultsOutside_push8 (s.setP { s.p with u := true }) (s.p.pushed true)
    exact .inl (((FaultsOutside.of_cfg rfl hpush).bind fun _ _ => .ok s _) f h)
  | pla | plp => exact .inl (((faultsOutside_pull8 s).bind fun _ _ => .ok s _) f h)
  | _ => cases h

/-- Settles O16: a pulse stops in its mode, at a pointer byte, or in its operation. -/
theorem instructionsFaultOnlyAsTheSpecNames : Obligations.InstructionsFaultOnlyAsTheSpecNames := by
  intro i s f h
  rw [exec_eq_pulse] at h
  obtain h | ⟨c, hc, h⟩ := pulse_eq_fault h
  · exact .inl h
  · refine (operation_eq_error h).imp ?_ ?_
    · rintro ⟨addr, hb, rfl⟩
      exact ⟨addr, by simpa using hb, rfl⟩
    · rintro ⟨rfl, hd, hm, hi⟩
      exact ⟨c, hc, by simp, by simpa using hd, by simpa using hm, hi⟩

/-! ## Progress on a full bus -/

theorem faultsOutside_fetchBytes (s : State) (n : Nat) (addr : Addr) : FaultsOutside s (fetchBytes s n addr) := by
  induction n generalizing addr with
  | zero => exact .ok s _
  | succ n ih => exact (faultsOutside_memRead s addr).bind fun _ _ => (ih (addr + 1)).bind fun _ _ => .ok s _

theorem faultsOutside_fetchInstr (s : State) : FaultsOutside s (fetchInstr s) :=
  (faultsOutside_memRead s s.pc).bind fun _ _ => (faultsOutside_fetchBytes s _ _).bind fun _ _ => .ok s _

theorem inBus_of_full {s : State} (h : s.cfg.memSize = 65536) (addr : Addr) : s.inBus addr = true := by
  rw [State.inBus, h, decide_eq_true_eq]
  exact addr.isLt

/-- A well-formed instruction on a full bus completes, unless it is the spec's stop of a decimal ADC or SBC. -/
theorem exec_of_full {i : Instr} {s : State} (hw : i.wellFormed = true) (hfull : s.cfg.memSize = 65536)
    (hd : s.p.d = false ∨ s.cfg.decimalMode ≠ .unmodelled) : ∃ t, exec i s = .next t := by
  cases h : exec i s with
  | next t => exact ⟨t, rfl⟩
  | refused r =>
    rw [(exactlyTermsWithoutEncodingAreRefused i s).2 r h] at hw
    cases hw
  | fault f =>
    obtain ⟨addr, hb, -⟩ | ⟨_, -, -, hset, hm, -⟩ := instructionsFaultOnlyAsTheSpecNames i s f h
    · rw [inBus_of_full hfull] at hb
      cases hb
    · obtain hclear | hmode := hd
      · rw [hset] at hclear
        cases hclear
      · exact absurd hm hmode

/-- Settles O17: the fetch and the instruction could only stop outside the bus, or as a decimal ADC or SBC. -/
theorem everyPulseOnAFullBusContinues : Obligations.EveryPulseOnAFullBusContinues := by
  intro s hfault hhost hfull hd
  rw [SafeStep, step_of_no_call hfault hhost]
  by_cases hr : s.remaining = 0
  · cases hf : fetchInstr s with
    | ok i =>
      rw [clock_idle hr hf]
      exact exec_of_full (fetchInstr_wellFormed hf) hfull hd
    | error f =>
      obtain ⟨addr, hb, -⟩ := faultsOutside_fetchInstr s f hf
      rw [inBus_of_full hfull] at hb
      cases hb
  · exact ⟨_, clock_busy hr⟩

/-! ## Which access faults -/

/-- A mode stops at the first pointer byte that the bus does not have. -/
theorem exec_of_pointer_outside {i : Instr} {s : State} {c : Byte} {addr : Addr} (hc : i.opcode = some c)
    (h : s.firstOutside (pointerReads i.operand s) = some addr) : exec i s = .fault (.addressingFault addr) := by
  have hreads : checkReads (s.beginPulse c) (pointerReads i.operand s) = .error (.addressingFault addr) :=
    checkReads_of_firstOutside h
  simp [exec_eq_pulse, pulse, hc, resolve, hreads]

/-- A pulse whose operation stops. -/
theorem exec_of_operation_error {i : Instr} {s : State} {c : Byte} {f : Fault} (hc : i.opcode = some c)
    (hp : pointersInBus i.operand s = true) (hr : i.operation (s.atOperation i c) = .error f) :
    exec i s = .fault f := by
  have hmode : resolve i.operand (s.beginPulse c) = .ok (s.atOperation i c, pageCrossed i.operand (s.beginPulse c)) :=
    resolve_eq_ok.2 ⟨by simpa using hp, rfl, rfl⟩
  simp [exec_eq_pulse, pulse, hc, hmode, hr]

theorem fetchOperand_of_outside {o : Operand} {s : State} (himp : o.mode ≠ .imp) (himm : o.mode ≠ .imm)
    (hb : s.inBus s.addrAbs = false) : fetchOperand o s = .error (.addressingFault s.addrAbs) := by
  cases o with
  | imp => exact absurd rfl himp
  | imm v => exact absurd rfl himm
  | _ => rw [fetchOperand, memRead_of_not_inBus hb, error_bind]

/-- Every operation that reads or writes the byte at the effective address stops where the bus does not have it. -/
theorem operation_of_operand_outside {i : Instr} {s : State}
    (hmode : i.operand.mode ∉ ([.imp, .imm, .rel] : List Mode)) (hjump : i.mnemonic ∉ ([.jmp, .jsr] : List Mnemonic))
    (hb : s.inBus s.addrAbs = false) : i.operation s = .error (.addressingFault s.addrAbs) := by
  obtain ⟨himp, himm, -⟩ : i.operand.mode ≠ .imp ∧ i.operand.mode ≠ .imm ∧ i.operand.mode ≠ .rel := by
    simpa using hmode
  have hread := fetchOperand_of_outside himp himm hb
  cases i with
  | asl o | lsr o | rol o | ror o | inc o | dec o => exact bind_eq_error.2 (.inl hread)
  | adc o | sbc o | and o | ora o | eor o | cmp o | cpx o | cpy o | bit o | lda o | ldx o | ldy o =>
    exact bind_eq_error.2 (.inl hread)
  | sta o | stx o | sty o => exact bind_eq_error.2 (.inl (memWrite_eq_error.2 ⟨hb, rfl⟩))
  | jmp o | jsr w => simp [Instr.mnemonic] at hjump
  | bpl d | bmi d | bvc d | bvs d | bcc d | bcs d | bne d | beq d => simp [Instr.operand, Operand.mode] at hmode
  | _ => simp [Instr.operand, Operand.mode] at himp

theorem push8_of_firstOutside {s : State} {v : Byte} {addr : Addr} (h : s.firstOutside [stackAddr s.sp] = some addr) :
    push8 s v = .error (.addressingFault addr) := by
  obtain ⟨hb, rfl⟩ : s.inBus (stackAddr s.sp) = false ∧ stackAddr s.sp = addr := by
    simpa [State.firstOutside_cons_eq_some] using h
  exact push8_eq_error.2 ⟨hb, rfl⟩

theorem pull8_of_firstOutside {s : State} {addr : Addr} (h : s.firstOutside [stackAddr (s.sp + 1)] = some addr) :
    pull8 s = .error (.addressingFault addr) := by
  obtain ⟨hb, rfl⟩ : s.inBus (stackAddr (s.sp + 1)) = false ∧ stackAddr (s.sp + 1) = addr := by
    simpa [State.firstOutside_cons_eq_some] using h
  exact pull8_eq_error.2 ⟨hb, rfl⟩

/-- Settles O15: the mode reads its pointers before the operation runs; the operation starts with the effective
address in the cache and with S and the bus as they were, and its first access outside the bus stops it. -/
theorem accessOutsideBusFaultsWithItsAddress : Obligations.AccessOutsideBusFaultsWithItsAddress := by
  refine fun s => ⟨fun i hw => ⟨fun addr h => ?pointer, fun hp hb hmode hjump => ?operand⟩,
    fun target addr i accesses hi h => ?stack⟩
  case pointer =>
    obtain ⟨c, hc⟩ := opcode_of_wellFormed hw
    exact exec_of_pointer_outside hc h
  case operand =>
    obtain ⟨c, hc⟩ := opcode_of_wellFormed hw
    have haddr := s.atOperation_addrAbs i c (by rintro himm; simp [himm] at hmode)
    rw [← haddr] at hb ⊢
    exact exec_of_operation_error hc hp (operation_of_operand_outside hmode hjump (by simpa using hb))
  case stack =>
    have e2 : s.sp + 1 + 1 = s.sp + 2 := add_assoc ..
    have e3 : s.sp + 2 + 1 = s.sp + 3 := add_assoc ..
    rw [← e3, ← e2] at hi
    have hat (u : State) (hu : u.cfg = s.cfg) : u.firstOutside accesses = some addr :=
      (State.firstOutside_congr hu accesses).trans h
    simp only [List.mem_cons, Prod.mk.injEq, List.not_mem_nil, or_false] at hi
    obtain ⟨rfl, rfl⟩ | ⟨rfl, rfl⟩ | ⟨rfl, rfl⟩ | ⟨rfl, rfl⟩ | ⟨rfl, rfl⟩ | ⟨rfl, rfl⟩ | ⟨rfl, rfl⟩ |
      ⟨rfl, rfl⟩ := hi <;>
      refine exec_of_operation_error rfl rfl (bind_eq_error.2 (.inl ?_))
    · exact push8_of_firstOutside (by rw [State.atOperation_sp]; exact hat _ (by simp))
    · exact push8_of_firstOutside (by rw [State.setP_sp, State.atOperation_sp]; exact hat _ (by simp))
    · exact pull8_of_firstOutside (by rw [State.atOperation_sp]; exact hat _ (by simp))
    · exact pull8_of_firstOutside (by rw [State.atOperation_sp]; exact hat _ (by simp))
    · exact push16_of_firstOutside (by rw [State.atOperation_sp]; exact hat _ (by simp))
    · exact pull16_of_firstOutside (by rw [State.atOperation_sp]; exact hat _ (by simp))
    · exact returnFromException_of_firstOutside (by rw [State.atOperation_sp]; exact hat _ (by simp))
    · refine enterException_of_firstOutside ?_
      rw [entryAccesses, State.setPc_sp, State.atOperation_sp]
      exact hat _ (by simp)

/-- R191: with D = 1 and DECIMAL_MODE unmodelled, ADC and SBC stop after the operand read. -/
theorem exec_of_decimal_unmodelled {i : Instr} {s : State} {c : Byte} {f g : Status → Byte → Byte → Result}
    (hop : i.operation = addOrSubtract i.operand f g) (hc : i.opcode = some c) (hp : pointersInBus i.operand s = true)
    (hd : s.p.d = true) (hm : s.cfg.decimalMode = .unmodelled) :
    (operandInBus i.operand s = true → exec i s = .fault (.decimalUnmodelled c)) ∧
      (operandInBus i.operand s = false → exec i s = .fault (.addressingFault (effAddr i.operand s))) := by
  refine ⟨fun ho => exec_of_operation_error hc hp ?decimal, fun ho => exec_of_operation_error hc hp ?operand⟩ <;>
    rw [hop, addOrSubtract]
  case decimal => simp [fetchOperand_atOperation ho, hd, hm]
  case operand =>
    obtain ⟨⟨himp, himm⟩, hb⟩ : (i.operand.mode ≠ .imp ∧ i.operand.mode ≠ .imm) ∧
        s.inBus (effAddr i.operand s) = false := by simpa [operandInBus] using ho
    have haddr := s.atOperation_addrAbs i c himm
    rw [← haddr] at hb ⊢
    rw [fetchOperand_of_outside himp himm (by simpa using hb), error_bind]

/-- Settles O42: the operand read comes first, then the decimal stop. -/
theorem adcAndSbcStopWhenDecimalIsUnmodelled : Obligations.AdcAndSbcStopWhenDecimalIsUnmodelled := by
  intro i o s c hi hc hp hd hm
  obtain rfl | rfl := hi
  · exact exec_of_decimal_unmodelled (i := .adc o) (Instr.operation.eq_def _) hc hp hd hm
  · exact exec_of_decimal_unmodelled (i := .sbc o) (Instr.operation.eq_def _) hc hp hd hm

end Sys2Proof.Machine

/-! PROOFS. The Decimal flag is read by ADC, SBC and the status pushes only (R33). -/

namespace Sys2Proof.Machine

open Sys2Proof

/-- The state with another value of the Decimal flag. -/
def State.withD (s : State) (d : Bool) : State := s.setP { s.p with d := d }

/-- The operation does the same from a state with another D, which stays as given or becomes what the operation
writes. -/
def IgnoresD (op : State → Except Fault Done) : Prop :=
  ∀ s d r, op s = .ok r →
    ∃ d', (d' = d ∨ d' = r.state.p.d) ∧ op (s.withD d) = .ok ⟨r.state.withD d', r.ox, r.bx⟩

@[simp] theorem pointersInBus_withD (o : Operand) (s : State) (d : Bool) :
    pointersInBus o (s.withD d) = pointersInBus o s := by
  cases o <;> rfl

@[simp] theorem pageCrossed_withD (o : Operand) (s : State) (d : Bool) :
    pageCrossed o (s.withD d) = pageCrossed o s := by
  cases o <;> rfl

/-- A mode function does not read D. -/
theorem State.atOperation_withD (s : State) (d : Bool) (i : Instr) (c : Byte) :
    (s.withD d).atOperation i c = (s.atOperation i c).withD d := by
  unfold State.atOperation State.resolved
  cases i.operand <;> rfl

theorem ignoresD_registerOp {f : State → State}
    (hf : ∀ s d, ∃ d', (d' = d ∨ d' = (f s).p.d) ∧ f (s.withD d) = (f s).withD d') : IgnoresD (registerOp f) := by
  intro s d r hr
  cases hr
  obtain ⟨d', hd', hfd⟩ := hf s d
  exact ⟨d', hd', by rw [registerOp, hfd]; rfl⟩

theorem fetchOperand_withD {o : Operand} {s t : State} (d : Bool) (h : fetchOperand o s = .ok t) :
    fetchOperand o (s.withD d) = .ok (t.withD d) := by
  cases o with
  | imp | imm v => cases h; rfl
  | _ =>
    obtain ⟨v, hv, h⟩ := bind_eq_ok.1 h
    cases h
    exact bind_eq_ok.2 ⟨v, hv, rfl⟩

theorem ignoresD_readOp {o : Operand} {ox : Bool} {f : State → Byte → State}
    (hf : ∀ s v d, f (s.withD d) v = (f s v).withD d) : IgnoresD (readOp o ox f) := by
  intro s d r hr
  obtain ⟨t, ht, hr⟩ := bind_eq_ok.1 hr
  cases hr
  refine ⟨d, .inl rfl, bind_eq_ok.2 ⟨_, fetchOperand_withD d ht, ?_⟩⟩
  rw [hf]
  rfl

theorem ignoresD_modifyOp {o : Operand} {f : Status → Byte → Result}
    (hf : ∀ p v d, f { p with d := d } v = ⟨(f p v).value, { (f p v).status with d := d }⟩) :
    IgnoresD (modifyOp o f) := by
  intro s d r hr
  obtain ⟨t, ht, hr⟩ := bind_eq_ok.1 hr
  obtain ⟨u, hu, hr⟩ := bind_eq_ok.1 hr
  cases hr
  refine ⟨d, .inl rfl, bind_eq_ok.2 ⟨_, fetchOperand_withD d ht, bind_eq_ok.2 ⟨u.withD d, ?_, rfl⟩⟩⟩
  have hft : f (t.withD d).p (t.withD d).fetched =
      ⟨(f t.p t.fetched).value, { (f t.p t.fetched).status with d := d }⟩ := hf t.p t.fetched d
  rw [hft]
  refine writeBack_eq_ok.2 ((writeBack_eq_ok.1 hu).imp ?_ ?_)
  · rintro ⟨hm, rfl⟩
    exact ⟨hm, rfl⟩
  · rintro ⟨hm, hb, rfl⟩
    exact ⟨hm, hb, rfl⟩

theorem ignoresD_storeOp {v : State → Byte} (hv : ∀ s d, v (s.withD d) = v s) : IgnoresD (storeOp v) := by
  intro s d r hr
  obtain ⟨hb, rfl⟩ := storeOp_eq_ok.1 hr
  refine ⟨d, .inl rfl, storeOp_eq_ok.2 ⟨hb, ?_⟩⟩
  rw [hv]
  rfl

theorem ignoresD_branchOp {cond : Status → Bool} (hcond : ∀ p d, cond { p with d := d } = cond p) :
    IgnoresD (branchOp cond) := by
  intro s d r hr
  have hd : cond (s.withD d).p = cond s.p := hcond s.p d
  refine ⟨d, .inl rfl, ?_⟩
  rw [branchOp, hd]
  rw [branchOp] at hr
  split at hr <;> rename_i hc <;> cases hr <;> simp only [hc] <;> rfl

/-- Every operation but those of ADC, SBC, PHP and BRK. -/
theorem operation_ignoresD {i : Instr} (hi : i.mnemonic ∉ ([.adc, .sbc, .php, .brk] : List Mnemonic)) :
    IgnoresD i.operation := by
  cases i with
  | adc o | sbc o | php | brk => simp [Instr.mnemonic] at hi
  | asl o | lsr o | rol o | ror o | inc o | dec o => exact ignoresD_modifyOp fun _ _ _ => rfl
  | and o | ora o | eor o | cmp o | cpx o | cpy o | bit o | lda o | ldx o | ldy o =>
    rw [Instr.operation.eq_def]
    exact ignoresD_readOp fun _ _ _ => rfl
  | sta o | stx o | sty o => exact ignoresD_storeOp fun _ _ => rfl
  | bpl d | bmi d | bvc d | bvs d | bcc d | bcs d | bne d | beq d =>
    rw [Instr.operation.eq_def]
    exact ignoresD_branchOp fun _ _ => rfl
  | inx | iny | dex | dey | tax | tay | txa | tya | tsx | txs | clc | sec | cli | sei | clv | jmp o =>
    rw [Instr.operation.eq_def]
    exact ignoresD_registerOp fun _ d => ⟨d, .inl rfl, rfl⟩
  | cld => exact ignoresD_registerOp fun _ _ => ⟨false, .inr rfl, rfl⟩
  | sed => exact ignoresD_registerOp fun _ _ => ⟨true, .inr rfl, rfl⟩
  | nop | xxx c =>
    intro s d r hr
    cases hr
    exact ⟨d, .inl rfl, rfl⟩
  | pha =>
    intro s d r hr
    obtain ⟨t, ht, hr⟩ := bind_eq_ok.1 hr
    cases hr
    obtain ⟨hb, rfl⟩ := push8_eq_ok.1 ht
    exact ⟨d, .inl rfl, bind_eq_ok.2 ⟨_, push8_of_inBus hb, rfl⟩⟩
  | pla =>
    intro s d r hr
    obtain ⟨⟨v, t⟩, ht, hr⟩ := bind_eq_ok.1 hr
    cases hr
    obtain ⟨hb, rfl, rfl⟩ := pull8_eq_ok.1 ht
    exact ⟨d, .inl rfl, bind_eq_ok.2 ⟨_, pull8_of_inBus hb, rfl⟩⟩
  | plp =>
    intro s d r hr
    obtain ⟨⟨v, t⟩, ht, hr⟩ := bind_eq_ok.1 hr
    cases hr
    obtain ⟨hb, rfl, rfl⟩ := pull8_eq_ok.1 ht
    exact ⟨_, .inr rfl, bind_eq_ok.2 ⟨_, pull8_of_inBus hb, rfl⟩⟩
  | jsr w =>
    intro s d r hr
    obtain ⟨t, ht, hr⟩ := bind_eq_ok.1 hr
    cases hr
    obtain ⟨hb, hb', rfl⟩ := push16_eq_ok.1 ht
    exact ⟨d, .inl rfl, bind_eq_ok.2 ⟨_, push16_of_inBus hb hb', rfl⟩⟩
  | rts =>
    intro s d r hr
    obtain ⟨⟨v, t⟩, ht, hr⟩ := bind_eq_ok.1 hr
    cases hr
    obtain ⟨hb, hb', rfl, rfl⟩ := pull16_eq_ok.1 ht
    exact ⟨d, .inl rfl, bind_eq_ok.2 ⟨_, pull16_of_inBus hb hb', rfl⟩⟩
  | rti =>
    intro s d r hr
    obtain ⟨t, ht, hr⟩ := bind_eq_ok.1 hr
    cases hr
    obtain ⟨h1, h2, h3, rfl⟩ := returnFromException_eq_ok.1 ht
    exact ⟨_, .inr rfl, bind_eq_ok.2 ⟨_, returnFromException_eq_ok.2 ⟨h1, h2, h3, rfl⟩, rfl⟩⟩

/-- Settles O59: the mode and the cost do not read D, nor does the operation. -/
theorem decimalFlagIsReadOnlyByItsReaders : Obligations.DecimalFlagIsReadOnlyByItsReaders := by
  intro i s t d hi h
  obtain ⟨c, r, hc, hp, hr, rfl⟩ := exec_eq_next.1 h
  obtain ⟨d', hd', hrun⟩ := operation_ignoresD hi _ d r hr
  rw [← State.atOperation_withD] at hrun
  have hcost : pulseCost i (s.withD d) ⟨r.state.withD d', r.ox, r.bx⟩ = pulseCost i s r := by
    rw [pulseCost, pulseCost, pageCrossed_withD]
  have hexec : exec i (s.withD d) = .next ((r.state.withD d').endPulse (pulseCost i s r)) :=
    exec_eq_next.2 ⟨c, _, hc, (pointersInBus_withD _ s d).trans hp, hrun, by rw [hcost]⟩
  exact ⟨_, hexec, rfl, hd', fun k => rfl⟩

end Sys2Proof.Machine

/-! PROOFS. One step of the host (R131, R136, R150, R312 to R314, R350): the pulses, the entry points and the host's
write. -/

namespace Sys2Proof.Machine

open Sys2Proof

/-! ## The clock pulse -/

/-- A listed `clock()` is a pulse of the state without the call. -/
theorem step_of_clock {s : State} {rest : List HostAction} (h : s.fault = none) (hh : s.host = .clock :: rest) :
    step s = clock (s.setHost rest) :=
  step_of_call h hh

theorem clock_of_fetch_error {s : State} {f : Fault} (h : s.remaining = 0) (hf : fetchInstr s = .error f) :
    clock s = .fault f := by
  simp [clock, h, hf]

theorem clock_idle_eq_next {s t : State} (hr : s.remaining = 0) (h : clock s = .next t) :
    ∃ i, exec i s = .next t := by
  cases hf : fetchInstr s with
  | ok i => exact ⟨i, by rwa [clock_idle hr hf] at h⟩
  | error f => rw [clock_of_fetch_error hr hf] at h; cases h

/-- Settles O10: the fetch reads the instruction that the bytes decode to; it does not read the host's list. -/
theorem idleStepExecutesTheDecodedInstruction : Obligations.IdleStepExecutesTheDecodedInstruction := by
  intro s i rest hfault hr hd hb
  refine ⟨fun hh => ?_, fun hs hh => ?_⟩
  · rw [step_of_no_call hfault hh, clock_idle hr (fetchInstr_of_decode hd hb)]
  · rw [step_of_clock hfault hh]
    exact clock_idle (s := s.setHost hs) hr (fetchInstr_of_decode (s := s.setHost hs) hd hb)

/-- Settles O11: on a Busy core the pulse is a Busy pulse. -/
theorem busyStepOnlyCountsDown : Obligations.BusyStepOnlyCountsDown := by
  intro s hfault hr
  refine ⟨fun hh => ?_, fun hs hh => ?_⟩
  · rw [step_of_no_call hfault hh, clock_busy hr]
    rfl
  · rw [step_of_clock hfault hh]
    exact clock_busy (s := s.setHost hs) hr

theorem run_succ_of_next {M : Host.Core} {k : Nat} {s t : M.State} (h : M.step s = .next t) :
    M.run (k + 1) s = M.run k t := by
  rw [Host.Core.run, h]

/-- A Busy core whose host only calls `clock()` counts down as long as it is Busy (R136). -/
theorem run_busy {k : Nat} {s : State} (hfault : s.fault = none) (hh : s.host = []) (hk : k ≤ s.remaining) :
    core.run k s = .next (s.setRemaining (s.remaining - k)) := by
  induction k generalizing s with
  | zero => rfl
  | succ k ih =>
    have hrest := ih (s := s.busyPulse) hfault hh (by rw [State.busyPulse_remaining]; omega)
    rw [State.busyPulse_remaining, Nat.sub_sub, Nat.add_comm 1 k] at hrest
    exact (run_succ_of_next (M := core) ((step_of_no_call hfault hh).trans (clock_busy (by omega)))).trans hrest

/-- Settles O12: the executing pulse leaves the mark and the host's list as they were, and Busy pulses follow. -/
theorem instructionOccupiesExactlyItsCost : Obligations.InstructionOccupiesExactlyItsCost := by
  intro s t hh hr h k hk
  obtain ⟨hfault, -⟩ := step_eq_next h
  have hclock := h
  rw [step_of_no_call hfault hh] at hclock
  obtain ⟨i, hexec⟩ := clock_idle_eq_next hr hclock
  obtain ⟨hframe, -⟩ := exec_frame hexec
  exact (run_succ_of_next (M := core) h).trans (run_busy (hframe.fault.trans hfault) (hframe.host.trans hh) hk)

/-- Settles O13: a step that faults marks the state, and a marked core takes no step. -/
theorem faultMarkIsPermanent : Obligations.FaultMarkIsPermanent := by
  intro s f
  have marked (hs : s.fault = some f) : s.afterStep.fault = some f := by
    rw [State.afterStep_of_marked hs, hs]
  refine ⟨fun h => ?_, fun hs => ⟨step_of_fault hs, marked hs⟩⟩
  cases hs : s.fault with
  | none => rw [State.afterStep_of_fault hs h, State.faultedWith_fault]
  | some g =>
    rw [step_of_fault hs] at h
    cases h
    exact marked hs

/-- Settles O14: the fetch reads the opcode and then the operand bytes its mode has, in address order. -/
theorem fetchOutsideBusFaults : Obligations.FetchOutsideBusFaults := by
  intro s hfault hh hr
  rw [step_of_no_call hfault hh]
  refine ⟨fun h0 => clock_of_fetch_error hr ?_, fun h0 hn h1 => clock_of_fetch_error hr ?_,
    fun h0 hn h1 h2 => clock_of_fetch_error hr ?_⟩
  · rw [fetchInstr, memRead_of_not_inBus h0, error_bind]
  · obtain ⟨n, hn⟩ := Nat.exists_eq_add_of_le' hn
    rw [fetchInstr, memRead_of_inBus h0, ok_bind, hn, fetchBytes, memRead_of_not_inBus h1, error_bind, error_bind]
  · have e : s.pc + 1 + 1 = s.pc + 2 := add_assoc ..
    rw [fetchInstr, memRead_of_inBus h0, ok_bind, hn, fetchBytes, memRead_of_inBus h1, ok_bind, fetchBytes, e,
      memRead_of_not_inBus h2, error_bind, error_bind, error_bind]

/-! ## Refused calls -/

theorem outcome_ne_refused (x : Except Fault State) (r : Refusal) : outcome x ≠ .refused r := by
  cases x <;> simp

theorem clock_ne_refused (s : State) (r : Refusal) : clock s ≠ .refused r := by
  intro h
  by_cases hr : s.remaining = 0
  · cases hf : fetchInstr s with
    | ok i =>
      rw [clock_idle hr hf] at h
      have hw := (exactlyTermsWithoutEncodingAreRefused i s).2 r h
      rw [fetchInstr_wellFormed hf] at hw
      cases hw
    | error f => rw [clock_of_fetch_error hr hf] at h; cases h
  · rw [clock_busy hr] at h
    cases h

/-- Settles O53: an interrupt call has no move on a Busy core; a fetched instruction is always one of the map. -/
theorem interruptCallsWhileBusyHaveNoMove : Obligations.InterruptCallsWhileBusyHaveNoMove := by
  intro s hs hfault
  refine ⟨fun hr hh => ?_, fun hh r => ?_⟩
  · obtain hh | hh := hh <;> rw [step_of_call hfault hh] <;> simp [hostAction, interruptCall, hr]
  · obtain hh | hh | hh := hh
    · rw [step_of_no_call hfault hh]
      exact clock_ne_refused s r
    · rw [step_of_clock hfault hh]
      exact clock_ne_refused _ r
    · rw [step_of_call hfault hh]
      exact outcome_ne_refused _ r

/-! ## Reset -/

/-- Settles O1: `reset()` reads its vector and writes no bus byte. -/
theorem resetEntryLeavesResetState : Obligations.ResetEntryLeavesResetState := by
  intro s rest hfault hh
  rw [step_of_call hfault hh]
  refine ⟨fun h h' => ?_, fun addr h => outcome_eq_fault.2 ?_⟩
  · refine ⟨_, outcome_eq_next.2 (resetEntry_eq_ok.2 ⟨h, h', rfl⟩), ?_, rfl, rfl, rfl, rfl, rfl, fun k => rfl⟩
    rw [← hfault]
    rfl
  · rw [resetEntry, memRead16_of_firstOutside, error_bind]
    exact h

/-- Settles O2: over a bus that lists nothing, `reset()` leaves the fields of `State.reset`. -/
theorem resetStateIsWhatResetLeaves : Obligations.ResetStateIsWhatResetLeaves := by
  intro s hfault hh hcfg hmem
  rw [step_of_call hfault hh]
  have hbus (addr : Addr) : (s.setHost []).inBus addr = true := inBus_of_full (by rw [State.setHost_cfg, hcfg]; rfl) addr
  refine outcome_eq_next.2 (resetEntry_eq_ok.2 ⟨hbus _, hbus _, ?_⟩)
  simp [State.reset, State.afterReset, State.wordAt, State.byteAt, hfault, hcfg, hmem, cat]

/-- Settles O3: by evaluation. -/
theorem resetStateMeetsInvariant : Obligations.ResetStateMeetsInvariant := by
  unfold Obligations.ResetStateMeetsInvariant
  decide

/-! ## Interrupts -/

/-- R312: what an entry through a vector above the stack page leaves. -/
theorem interruptEntry_of_inBus {s : State} {vector : Addr} (cost : Nat) (hb : entryInBus s vector = true)
    (h : 0x200 ≤ vector.toNat) (h' : 0x200 ≤ (vector + 1).toNat) :
    ∃ t, interruptEntry s vector cost = .ok t ∧
      t.boundary =
        { s.boundary with
          sp := s.sp - 3
          pc := s.wordAt vector
          p := { s.p with i := true, u := true }
          remaining := cost } ∧
      ∀ k, t.mem.read k =
        storeAt (storeAt (storeAt s.bus (stackAddr s.sp) (hi s.pc)) (stackAddr (s.sp - 1)) (lo s.pc))
          (stackAddr (s.sp - 2)) ((s.p.toByte &&& 0xEF) ||| 0x20) k := by
  refine ⟨_, interruptEntry_eq_ok.2 ⟨hb, rfl⟩, ?boundary, fun k => ?bus⟩
  case boundary =>
    rw [State.afterEntry, State.entered_wordAt s false h h']
    simp [State.boundary, sub_sub]
  case bus =>
    rw [← Status.pushed_false]
    simp [State.afterEntry, State.entered_mem, Memory.read_write, storeAt, State.bus, sub_sub]

theorem interruptEntry_of_firstOutside {s : State} {vector addr : Addr} (cost : Nat)
    (h : s.firstOutside (entryAccesses s vector) = some addr) :
    interruptEntry s vector cost = .error (.addressingFault addr) := by
  rw [interruptEntry, enterException_of_firstOutside h, error_bind]

theorem step_of_interrupt {s : State} {hs : List HostAction} (hfault : s.fault = none) (hr : s.remaining = 0) :
    (s.host = .nmi :: hs → step s = outcome (nmiEntry (s.setHost hs))) ∧
      (s.host = .irq :: hs → step s = outcome (irqEntry (s.setHost hs))) := by
  refine ⟨fun hh => ?_, fun hh => ?_⟩ <;> rw [step_of_call hfault hh] <;> simp [hostAction, interruptCall, hr]

/-- Settles O51: an entry through 0xFFFA. -/
theorem nmiEntersThroughItsVector : Obligations.NmiEntersThroughItsVector := by
  intro s hs hfault hr hh
  rw [(step_of_interrupt hfault hr).1 hh]
  refine ⟨fun hb => ?_, fun addr h => ?_⟩
  · obtain ⟨t, ht, hboundary, hbus⟩ :=
      interruptEntry_of_inBus (s := s.setHost hs) s.cfg.nmiCycles hb (by decide) (by decide)
    exact ⟨t, outcome_eq_next.2 ht, hboundary, hbus⟩
  · exact outcome_eq_fault.2 (interruptEntry_of_firstOutside (s := s.setHost hs) _ h)

/-- Settles O52: with I = 1 nothing happens, with I = 0 an entry through 0xFFFE. -/
theorem irqEntersOnlyWhenEnabled : Obligations.IrqEntersOnlyWhenEnabled := by
  intro s hs hfault hr hh
  rw [(step_of_interrupt hfault hr).2 hh]
  refine ⟨fun hi => ?_, fun hi hb => ?_, fun hi addr h => ?_⟩ <;>
    rw [irqEntry, State.setHost_p, hi]
  · rfl
  · obtain ⟨t, ht, hboundary, hbus⟩ :=
      interruptEntry_of_inBus (s := s.setHost hs) s.cfg.irqCycles hb (by decide) (by decide)
    exact ⟨t, outcome_eq_next.2 ht, hboundary, hbus⟩
  · exact outcome_eq_fault.2 (interruptEntry_of_firstOutside (s := s.setHost hs) _ h)

/-! ## The bus -/

theorem inBus_eq_false_iff {s : State} {addr : Addr} : s.inBus addr = false ↔ s.cfg.memSize ≤ addr.toNat := by
  simp [State.inBus]

/-- Settles O19: the access is made where the bus has the address; the list is then read and written by its laws. -/
theorem busReadsAndWritesOneByte : Obligations.BusReadsAndWritesOneByte := by
  refine fun s addr v => ⟨fun h => ?_, fun h => ?_⟩
  · have hb : s.inBus addr = true := decide_eq_true h
    exact ⟨memRead_of_inBus hb, _, memWrite_of_inBus hb, Memory.read_write_self _ _ _,
      fun k hk => Memory.read_write_of_ne _ _ hk, rfl, Memory.write_wf⟩
  · have hb := inBus_eq_false_iff.2 h
    exact ⟨memRead_of_not_inBus hb, memWrite_eq_error.2 ⟨hb, rfl⟩⟩

/-- Settles O20: a host write is the byte write of the bus, and refused outside it. -/
theorem hostWriteStoresOneBusByte : Obligations.HostWriteStoresOneBusByte := by
  intro s addr v hs hfault hh
  rw [step_of_call hfault hh]
  refine ⟨fun hb => ?_, fun hb => ?_⟩
  · exact ⟨_, hostWrite_eq_next.2 ⟨hb, rfl⟩, rfl, fun k => Memory.read_write _ _ _ k⟩
  · simp [hostAction, hostWrite, hb]

end Sys2Proof.Machine

/-! PROOFS. Sequences of pushes and pulls (R61) and the addressing modes (R100 to R113). -/

namespace Sys2Proof.Machine

open Sys2Proof

/-! ## The stack -/

/-- The bytes that `n` pulls find, the first one first. -/
def State.stackBytes (s : State) (n : Nat) : List Byte :=
  (List.range n).map fun k => s.byteAt (stackAddr (s.sp + BitVec.ofNat 8 (k + 1)))

theorem add_one_add_ofNat (b : Byte) (k : Nat) : b + 1 + BitVec.ofNat 8 k = b + BitVec.ofNat 8 (k + 1) := by
  rw [add_assoc, Nat.add_comm k 1, BitVec.ofNat_add]
  rfl

theorem State.stackBytes_succ (s : State) (n : Nat) :
    s.stackBytes (n + 1) = s.byteAt (stackAddr (s.sp + 1)) :: s.pulled8.stackBytes n := by
  simp only [State.stackBytes, List.range_succ_eq_map, List.map_cons, List.map_map, Function.comp_def,
    State.pulled8_sp, State.pulled8_byteAt, add_one_add_ofNat]
  rfl

/-- `n` pulls take `n` bytes and raise S by `n` (R58). -/
theorem pullMany_of_inBus {s : State} (h : ∀ sp, s.inBus (stackAddr sp) = true) (n : Nat) :
    pullMany s n = .ok (s.stackBytes n, s.setSp (s.sp + BitVec.ofNat 8 n)) := by
  induction n generalizing s with
  | zero => simp [pullMany, State.stackBytes, State.setSp]
  | succ n ih =>
    rw [State.stackBytes_succ, ← add_one_add_ofNat]
    exact bind_eq_ok.2 ⟨_, pull8_of_inBus (h _), bind_eq_ok.2 ⟨_, ih (s := s.pulled8) h, rfl⟩⟩

/-- A push puts its byte before those that fewer than 256 pulls would find (R57). -/
theorem State.stackBytes_pushed8 (s : State) (v : Byte) {n : Nat} (hn : n < 256) :
    (s.pushed8 v).stackBytes (n + 1) = v :: s.stackBytes n := by
  have e : s.sp - 1 + 1 = s.sp := sub_add_cancel _ _
  rw [State.stackBytes_succ, State.pushed8_sp, e, State.pushed8_byteAt, if_pos rfl]
  refine congrArg (v :: ·) (List.map_congr_left fun k hk => ?_)
  rw [List.mem_range] at hk
  have hne : stackAddr (s.sp + BitVec.ofNat 8 (k + 1)) ≠ stackAddr s.sp := by
    rw [ne_eq, stackAddr_inj]
    bv_omega
  rw [State.pulled8_byteAt, State.pulled8_sp, State.pushed8_sp, e, State.pushed8_byteAt, if_neg hne]

/-- The last byte of a list is pushed last. -/
theorem pushAll_append_singleton {s t : State} {vs : List Byte} {v : Byte} (h : pushAll s vs = .ok t) :
    pushAll s (vs ++ [v]) = push8 t v := by
  induction vs generalizing s with
  | nil =>
    obtain rfl : s = t := Except.ok.inj h
    simp only [List.nil_append, pushAll]
    cases push8 s v <;> rfl
  | cons w vs ih =>
    obtain ⟨u, hu, h⟩ := bind_eq_ok.1 h
    rw [List.cons_append, pushAll, hu, ok_bind, ih h]

/-- What at most 256 pushes leave: S lower by their number, their bytes for as many pulls to find, the last one first,
and the bus outside the stack page as it was. -/
theorem pushAll_of_inBus {s : State} (h : ∀ sp, s.inBus (stackAddr sp) = true) {vs : List Byte} (hn : vs.length ≤ 256) :
    ∃ t, pushAll s vs = .ok t ∧ t.cfg = s.cfg ∧ t.sp = s.sp - BitVec.ofNat 8 vs.length ∧
      t.stackBytes vs.length = vs.reverse ∧ ∀ k, (k < 0x0100 ∨ 0x01FF < k) → t.mem.read k = s.mem.read k := by
  induction vs using List.reverseRecOn with
  | nil => exact ⟨s, rfl, rfl, by simp, rfl, fun _ _ => rfl⟩
  | append_singleton vs v ih =>
    rw [List.length_append, List.length_singleton] at hn ⊢
    obtain ⟨t, ht, hcfg, hsp, hbytes, hbus⟩ := ih (by omega)
    have hin : t.inBus (stackAddr t.sp) = true := (inBus_congr hcfg _).trans (h _)
    refine ⟨t.pushed8 v, (pushAll_append_singleton ht).trans (push8_of_inBus hin), hcfg, ?sp, ?bytes, fun k hk => ?bus⟩
    case sp =>
      rw [State.pushed8_sp, hsp, BitVec.ofNat_add, sub_sub]
      rfl
    case bytes => rw [State.stackBytes_pushed8 t v (by omega), hbytes, List.reverse_append]; rfl
    case bus =>
      have hne : k ≠ (stackAddr t.sp).toNat := by
        have hlt := t.sp.isLt
        rw [stackAddr_toNat]
        omega
      rw [State.pushed8_mem, Memory.read_write_of_ne _ _ hne, hbus k hk]

/-- Settles O21: the pulls find the pushed bytes in reverse, and S returns. -/
theorem pullsReturnPushesInReverse : Obligations.PullsReturnPushesInReverse := by
  intro s vs hn h
  obtain ⟨t, ht, hcfg, hsp, hbytes, hbus⟩ := pushAll_of_inBus h hn
  have hpull := pullMany_of_inBus (fun sp => (inBus_congr hcfg _).trans (h sp)) vs.length
  rw [hbytes] at hpull
  exact ⟨t, _, ht, hpull, by rw [State.setSp_sp, hsp, sub_add_cancel], hbus⟩

/-! ## The addressing modes -/

theorem resolve_of_inBus {o : Operand} {s : State} (h : pointersInBus o s = true) :
    resolve o s = .ok (s.resolved o, pageCrossed o s) :=
  resolve_eq_ok.2 ⟨h, rfl, rfl⟩

theorem zext16_eq_ofNat (z : Byte) : zext16 z = BitVec.ofNat 16 z.toNat := by
  apply BitVec.eq_of_toNat_eq
  have hz := z.isLt
  rw [zext16_toNat, BitVec.toNat_ofNat]
  omega

/-- R106: the sign extension adds 0xFF00 to a byte of 128 or more. -/
theorem sext16_eq_ofNat (d : Byte) :
    sext16 d = BitVec.ofNat 16 (if d.toNat < 128 then d.toNat else d.toNat + 0xFF00) := by
  apply BitVec.eq_of_toNat_eq
  have hd := d.isLt
  rw [sext16, BitVec.toNat_signExtend, BitVec.toNat_ofNat, BitVec.msb_eq_decide, BitVec.toNat_setWidth]
  simp only [decide_eq_true_eq, Nat.reducePow, Nat.reduceSub]
  split <;> split <;> omega

/-- Settles O25: each mode leaves `State.resolved`, whose fields are those of its rule. -/
theorem plainModesResolve : Obligations.PlainModesResolve := by
  intro s
  refine ⟨(resolve_of_inBus rfl).trans ?imp, fun z => (resolve_of_inBus rfl).trans ?zp,
    fun d => (resolve_of_inBus rfl).trans ?rel, fun w => resolve_of_inBus rfl, fun p p2 h hp hp2 => ?ind⟩
  case imp => simp [State.resolved, Operand.mode, Mode.operandBytes, effAddr, relOffset, pageCrossed]; rfl
  case zp => rw [← zext16_eq_ofNat]; rfl
  case rel => rw [← sext16_eq_ofNat]; rfl
  case ind =>
    have hpage := cat_hi_lo_add_one_of_toNat h
    have hin : pointersInBus (.ind p) s = true := by rw [pointersInBus_ind, hpage, hp, hp2]; rfl
    rw [resolve_of_inBus hin, ← hpage]
    rfl

theorem zpAddr_toNat (z x : Byte) : (zext16 (z + x)).toNat = (z.toNat + x.toNat) % 256 := by
  rw [zext16_toNat, BitVec.toNat_add]

/-- R113: the page of an address is its quotient by 256. -/
theorem hi_ne_iff (a b : Addr) : (hi a != hi b) = true ↔ a.toNat / 256 ≠ b.toNat / 256 := by
  rw [bne_iff_ne, ne_eq, BitVec.toNat_inj.symm, hi_toNat, hi_toNat]

theorem addIndex_toNat (w : Addr) (x : Byte) : (w + zext16 x).toNat = (w.toNat + x.toNat) % 65536 := by
  rw [BitVec.toNat_add, zext16_toNat]

theorem zext16_eq_of_toNat {z : Byte} {p : Addr} (h : p.toNat = z.toNat) : zext16 z = p :=
  BitVec.eq_of_toNat_eq (by rw [zext16_toNat, h])

theorem pointersInBus_izx (z : Byte) (s : State) :
    pointersInBus (.izx z) s = (s.inBus (zext16 (z + s.x)) && s.inBus (zext16 (z + s.x + 1))) := by
  simp [pointersInBus, pointerReads]

theorem pointersInBus_izy (z : Byte) (s : State) :
    pointersInBus (.izy z) s = (s.inBus (zext16 z) && s.inBus (zext16 (z + 1))) := by
  simp [pointersInBus, pointerReads]

/-- Settles O26: each effective address as a number, and the page as its quotient by 256. -/
theorem indexedModesResolve : Obligations.IndexedModesResolve := by
  intro s
  refine ⟨fun v => resolve_of_inBus rfl, fun z => ⟨_, resolve_of_inBus rfl, ?zpx, rfl⟩,
    fun z => ⟨_, resolve_of_inBus rfl, ?zpy, rfl⟩, fun w => ⟨_, _, resolve_of_inBus rfl, ?abx, hi_ne_iff _ _, rfl⟩,
    fun w => ⟨_, _, resolve_of_inBus rfl, ?aby, hi_ne_iff _ _, rfl⟩, fun z p p1 hp hp1 hb hb1 => ?izx,
    fun z p p1 hp hp1 hb hb1 => ?izy⟩
  case zpx => exact zpAddr_toNat z s.x
  case zpy => exact zpAddr_toNat z s.y
  case abx => exact addIndex_toNat w s.x
  case aby => exact addIndex_toNat w s.y
  case izx =>
    have e : zext16 (z + s.x) = p := zext16_eq_of_toNat (by rw [hp, BitVec.toNat_add])
    have e1 : zext16 (z + s.x + 1) = p1 := zext16_eq_of_toNat (by rw [hp1, BitVec.toNat_add, BitVec.toNat_add]; simp)
    have hin : pointersInBus (.izx z) s = true := by rw [pointersInBus_izx, e, e1, hb, hb1]; rfl
    rw [resolve_of_inBus hin, ← e, ← e1]
    rfl
  case izy =>
    have e : zext16 z = p := zext16_eq_of_toNat hp
    have e1 : zext16 (z + 1) = p1 := zext16_eq_of_toNat (by rw [hp1, BitVec.toNat_add]; rfl)
    have hin : pointersInBus (.izy z) s = true := by rw [pointersInBus_izy, e, e1, hb, hb1]; rfl
    have hbase : indexBase (.izy z) s = cat (s.byteAt p1) (s.byteAt p) := by rw [indexBase, e, e1]
    have haddr : (s.resolved (.izy z)).addrAbs = cat (s.byteAt p1) (s.byteAt p) + zext16 s.y := by
      rw [State.resolved_addrAbs, effAddr, hbase]
    refine ⟨_, _, resolve_of_inBus hin, ?addr, ?page, rfl⟩
    case addr => rw [haddr, addIndex_toNat, cat_toNat]
    case page =>
      rw [haddr, pageCrossed, effAddr, hbase, hi_ne_iff, ← hi_toNat (cat _ _), hi_cat]

end Sys2Proof.Machine

/-! PROOFS. The compares, the adder (R190 to R193, R197 to R205), the branches (R225 to R233), the illegal bytes (R301,
R302) and the counts of the opcode map (R370). -/

namespace Sys2Proof.Machine

open Sys2Proof

/-! ## Compares -/

/-- R197 in numbers. -/
theorem compareBytes_eq (p : Status) (r m : Byte) :
    compareBytes p r m =
      { p with
        c := decide (m.toNat ≤ r.toNat)
        z := decide (r = m)
        n := decide (128 ≤ (r.toNat + 256 - m.toNat) % 256) } := by
  have hm := m.isLt
  have hdiff : (r - m).toNat = (r.toNat + 256 - m.toNat) % 256 := by
    rw [BitVec.toNat_sub]
    omega
  have hzero : (r.toNat + 256 - m.toNat) % 256 = 0 ↔ r = m := by
    rw [← BitVec.toNat_inj]
    have hr := r.isLt
    omega
  simp only [compareBytes, Status.setZN_eq, hdiff, hzero, ge_iff_le]

/-- A compare of a register, which the mode and the operand read leave as it was. -/
theorem completes_compare {i : Instr} {s : State} {ox : Bool} {reg : State → Byte}
    (he : exec i s = pulse i s (readOp i.operand ox fun s m => s.setP (compareBytes s.p (reg s) m)))
    (hw : i.wellFormed = true) (hp : pointersInBus i.operand s = true) (ho : operandInBus i.operand s = true)
    (hreg : ∀ c v, reg ((s.atOperation i c).setFetched v) = reg s) :
    Completes i s
      { s.passed i ox with
        p :=
          { s.p with
            c := decide ((operandValue i.operand s).toNat ≤ (reg s).toNat)
            z := decide (reg s = operandValue i.operand s)
            n := decide (128 ≤ ((reg s).toNat + 256 - (operandValue i.operand s).toNat) % 256)
            u := true } } s.bus := by
  obtain ⟨c, hc⟩ := opcode_of_wellFormed hw
  refine completes_of_done he hc hp (readOp_atOperation ox _ ho) ?boundary fun k => by simp [State.bus]
  simp [State.boundary, State.passed, hreg, compareBytes_eq]

/-- Settles O37: each compare reads its operand and writes the status alone. -/
theorem comparesSetCarryZeroNegative : Obligations.ComparesSetCarryZeroNegative := by
  refine ⟨encodedAs_of_lookup (fun _ => rfl) (by decide), encodedAs_of_lookup (fun _ => rfl) (by decide),
    encodedAs_of_lookup (fun _ => rfl) (by decide),
    fun o s hp ho => ⟨fun hw => ?cmp, fun hw => ?cpx, fun hw => ?cpy⟩⟩
  case cmp => exact completes_compare (reg := State.a) rfl hw hp ho fun _ _ => by simp
  case cpx => exact completes_compare (reg := State.x) rfl hw hp ho fun _ _ => by simp
  case cpy => exact completes_compare (reg := State.y) rfl hw hp ho fun _ _ => by simp

/-! ## The adder -/

/-- R190 in numbers: the sum mod 256 with its Z and N, over the carry and the overflow of the sum. -/
theorem addBinary_eq_withZN (p : Status) (a m : Byte) :
    addBinary p a m = withZN
      { p with
        c := decide (a.toNat + m.toNat + p.c.toNat > 0xFF)
        v := decide (a.toInt + m.toInt + p.c.toNat < -128 ∨ 127 < a.toInt + m.toInt + p.c.toNat) }
      (BitVec.ofNat 8 ((a.toNat + m.toNat + p.c.toNat) % 256)) := by
  simp only [addBinary, withZN, getLsbD_overflow, ofNat_mod_256]

/-- R191: with D = 0 or DECIMAL_MODE binary, ADC and SBC add in binary what `g` makes of the operand. -/
theorem completes_addOrSubtract_binary {i : Instr} {s : State} {g : Byte → Byte} {f : Status → Byte → Byte → Result}
    (he : exec i s = pulse i s (addOrSubtract i.operand (fun p a m => addBinary p a (g m)) f))
    (hw : i.wellFormed = true) (hp : pointersInBus i.operand s = true) (ho : operandInBus i.operand s = true)
    (hbin : s.addsInBinary) :
    let m := g (operandValue i.operand s)
    let sum := s.a.toNat + m.toNat + s.p.c.toNat
    let signed : Int := s.a.toInt + m.toInt + s.p.c.toNat
    let r : Byte := BitVec.ofNat 8 (sum % 256)
    Completes i s
      { s.passed i true with
        a := r
        p := znOf { s.p with c := decide (sum > 0xFF), v := decide (signed < -128 ∨ 127 < signed) } r } s.bus := by
  obtain ⟨c, hc⟩ := opcode_of_wellFormed hw
  have hop : addOrSubtract i.operand (fun p a m => addBinary p a (g m)) f (s.atOperation i c) =
      .ok ⟨((s.atOperation i c).setFetched (operandValue i.operand s)).putA
        (addBinary { s.p with u := true } s.a (g (operandValue i.operand s))), true, 0⟩ := by
    rw [addOrSubtract, fetchOperand_atOperation ho, ok_bind]
    obtain hd | hm := hbin
    · simp [hd]
    · simp [hm]
  have h := completes_putA he hc hp hop
  rw [addBinary_eq_withZN] at h
  intro m sum signed r
  rw [← Status.setZN_eq_znOf]
  exact h

/-- Settles O39: ADC adds the operand and SBC its complement, which is 255 less the operand (R193). -/
theorem adcAndSbcAddInBinary : Obligations.AdcAndSbcAddInBinary := by
  refine ⟨encodedAs_of_lookup (fun _ => rfl) (by decide), encodedAs_of_lookup (fun _ => rfl) (by decide),
    fun o s hp ho hbin => ⟨fun hw => ?adc, fun hw => ?sbc⟩⟩
  case adc => exact completes_addOrSubtract_binary (g := id) (f := addNmos) rfl hw hp ho hbin
  case sbc =>
    have hnot : BitVec.ofNat 8 (255 - (operandValue o s).toNat) = ~~~(operandValue o s) :=
      BitVec.eq_of_toNat_eq (by simp; omega)
    rw [hnot]
    exact completes_addOrSubtract_binary (g := fun m => ~~~m) (f := subNmos) rfl hw hp ho hbin

/-- Settles O43: by O39 the two sums differ from the accumulator by `m + (255 - m)` and the two carries. -/
theorem adcThenSbcLaw : Obligations.AdcThenSbcLaw := by
  intro o o' s hw hw' hp ho hbin
  obtain ⟨-, -, hadd⟩ := adcAndSbcAddInBinary
  obtain ⟨t, ht, hb, -⟩ := (hadd o s hp ho hbin).1 hw
  have hta := congrArg Boundary.a hb
  have htd : t.p.d = s.p.d := congrArg (fun b => b.p.d) hb
  have htcfg : t.cfg = s.cfg := congrArg Boundary.cfg hb
  refine ⟨t, ht, by rwa [State.addsInBinary, htd, htcfg], fun u hua hubin hp' ho' hvalue => ?_⟩
  obtain ⟨v, hv, hb', -⟩ := (hadd o' u hp' ho' hubin).2 hw'
  have hva := congrArg Boundary.a hb'
  refine ⟨v, hv, ?_⟩
  have hA : t.a.toNat = (s.a.toNat + (operandValue o s).toNat + s.p.c.toNat) % 256 := by
    rw [show t.a = _ from hta, BitVec.toNat_ofNat, Nat.mod_mod]
  have hV : v.a.toNat = (t.a.toNat + (255 - (operandValue o s).toNat) + u.p.c.toNat) % 256 := by
    have hm := (operandValue o s).isLt
    rw [show v.a = _ from hva, BitVec.toNat_ofNat, BitVec.toNat_ofNat, hua, hvalue]
    omega
  have hm := (operandValue o s).isLt
  have hc := s.p.c.toNat_lt
  have hc' := u.p.c.toNat_lt
  have ha := s.a.isLt
  have hsum : v.a.toNat = (s.a.toNat + s.p.c.toNat + u.p.c.toNat + 255) % 256 := by omega
  refine ⟨hsum, ?_⟩
  rw [← BitVec.toNat_inj, hsum]
  omega

theorem toNat_decide_eq_ite (q : Prop) [Decidable q] : (decide q).toNat = if q then 1 else 0 := by
  by_cases hq : q <;> simp [hq]

/-- Settles O41: the adjustment of each digit is that of decimal addition, digit by digit. -/
theorem nmosDecimalIsBcdArithmetic : Obligations.NmosDecimalIsBcdArithmetic := by
  intro p a m ha ha' hm hm'
  have hc := p.c.toNat_lt
  refine ⟨?add, ?sub⟩
  case add =>
    simp only [addNmos, toNat_lowNibble, toNat_highNibble, BitVec.toNat_ofNat, toNat_decide_eq_ite]
    generalize p.c.toNat = c at hc
    generalize a.toNat = x at ha ha'
    generalize m.toNat = y at hm hm'
    split_ifs <;> omega
  case sub =>
    simp only [subNmos, toNat_lowNibble, toNat_highNibble, addBinary_not_status, BitVec.toNat_ofInt, toNat_decide_eq_ite]
    generalize p.c.toNat = c at hc
    generalize a.toNat = x at ha ha'
    generalize m.toNat = y at hm hm'
    split_ifs <;> omega

/-! ## Branches -/

/-- R106: a displacement added is the two's-complement sum mod 65536. -/
theorem add_sext16 (w : Addr) (d : Byte) : w + sext16 d = BitVec.ofInt 16 (w.toNat + d.toInt) := by
  rw [BitVec.ofInt_add, BitVec.ofInt_natCast, BitVec.ofNat_toNat, BitVec.setWidth_eq, ← sext16_toInt, BitVec.ofInt_toInt]

/-- The extra cycles of a taken branch (R225): one, and one more where the target has another high byte. -/
theorem one_add_hi_ne_toNat (v w : Addr) :
    1 + (hi v != hi w).toNat = if v.toNat / 256 = w.toNat / 256 then 1 else 2 := by
  simp only [← hi_toNat, BitVec.toNat_inj]
  by_cases h : hi v = hi w
  · simp [h]
  · rw [if_neg h, bne, beq_false_of_ne h]
    rfl

/-- R225: a branch of flag value `taken`, for each of the eight. -/
theorem completes_branch {i : Instr} {s : State} {c d : Byte} {cond : Status → Bool} {taken : Bool}
    (he : exec i s = pulse i s (branchOp cond)) (henc : EncodedWith i c 2 2) (hi : i.operand = .rel d)
    (hcond : cond { s.p with u := true } = taken) :
    let after := s.pc + 2
    let target : Addr := BitVec.ofInt 16 (after.toNat + d.toInt)
    let extra := if target.toNat / 256 = after.toNat / 256 then 1 else 2
    Completes i s
      { s.passed i false with
        pc := if taken then target else after
        remaining := (if taken then 2 + extra else 2) - 1 } s.bus := by
  intro after target extra
  obtain ⟨hc, hbase, hlen⟩ := henc
  have hp : pointersInBus i.operand s = true := by rw [hi]; rfl
  have hpc : (s.atOperation i c).pc = after := by simp [after, hlen]
  have hto : after + (s.atOperation i c).addrRel = target := by
    rw [State.atOperation_addrRel, hi]
    exact add_sext16 after d
  have hcross (t : State) (bx : Nat) : pulseCost i s ⟨t, false, bx⟩ = 2 + bx := by simp [pulseCost, hbase]
  cases taken with
  | false =>
    have hop : branchOp cond (s.atOperation i c) = .ok ⟨s.atOperation i c, false, 0⟩ := by
      simp [branchOp, hcond, done]
    refine ⟨_, he.trans (pulse_of_ok hc hp hop), ?_, fun k => by simp [State.bus]⟩
    rw [hcross, State.boundary_endPulse, State.boundary_atOperation]
    simp [State.passed, hlen, after]
  | true =>
    have hop : branchOp cond (s.atOperation i c) = .ok ⟨(s.atOperation i c).setPc target, false, extra⟩ := by
      simp only [branchOp, State.atOperation_p, hcond, hpc, hto, one_add_hi_ne_toNat, done]
      rfl
    refine ⟨_, he.trans (pulse_of_ok hc hp hop), ?_, fun k => by simp [State.bus]⟩
    rw [hcross, State.boundary_endPulse]
    simp [State.boundary, State.passed]

/-- Settles O48: the eight branches differ in the flag value they test alone. -/
theorem branchesJumpOnTheirFlag : Obligations.BranchesJumpOnTheirFlag := by
  intro s d
  have bpl : EncodedWith (.bpl d) 0x10 2 2 := ⟨rfl, rfl, rfl⟩
  have bmi : EncodedWith (.bmi d) 0x30 2 2 := ⟨rfl, rfl, rfl⟩
  have bvc : EncodedWith (.bvc d) 0x50 2 2 := ⟨rfl, rfl, rfl⟩
  have bvs : EncodedWith (.bvs d) 0x70 2 2 := ⟨rfl, rfl, rfl⟩
  have bcc : EncodedWith (.bcc d) 0x90 2 2 := ⟨rfl, rfl, rfl⟩
  have bcs : EncodedWith (.bcs d) 0xB0 2 2 := ⟨rfl, rfl, rfl⟩
  have bne : EncodedWith (.bne d) 0xD0 2 2 := ⟨rfl, rfl, rfl⟩
  have beq : EncodedWith (.beq d) 0xF0 2 2 := ⟨rfl, rfl, rfl⟩
  exact ⟨bpl, bmi, bvc, bvs, bcc, bcs, bne, beq,
    completes_branch rfl bpl rfl rfl, completes_branch rfl bmi rfl rfl, completes_branch rfl bvc rfl rfl,
    completes_branch rfl bvs rfl rfl, completes_branch rfl bcc rfl rfl, completes_branch rfl bcs rfl rfl,
    completes_branch rfl bne rfl rfl, completes_branch rfl beq rfl rfl⟩

/-! ## The illegal bytes and the counts of the opcode map -/

/-- R302's table: each row is an illegal byte, with the count R85 has for it, 2 to 8. -/
theorem illegalCounts_rows : ∀ r ∈ illegalCounts,
    (Instr.xxx r.1).wellFormed = true ∧ EncodedWith (.xxx r.1) r.1 r.2 1 ∧ 2 ≤ r.2 ∧ r.2 ≤ 8 := by
  unfold EncodedWith
  decide +kernel

theorem illegalOpcodes_eq : illegalOpcodes = illegalCounts.map Prod.fst := by decide +kernel

/-- R88: a well-formed no-op term is a byte of R302's table. -/
theorem exists_mem_illegalCounts {c : Byte} (hw : (Instr.xxx c).wellFormed = true) :
    ∃ cycles, (c, cycles) ∈ illegalCounts := by
  have hmem : c ∈ illegalOpcodes := List.contains_iff_mem.1 hw
  simpa [illegalOpcodes_eq] using hmem

/-- Settles O50: an illegal byte's operation is empty, so its pulse alone acts. -/
theorem illegalOpcodesOnlyPass : Obligations.IllegalOpcodesOnlyPass := by
  refine ⟨by decide, by decide +kernel, illegalOpcodes_eq, fun _ => exists_mem_illegalCounts, fun c cycles s hmem => ?_⟩
  obtain ⟨hw, henc, hlow, hhigh⟩ := illegalCounts_rows _ hmem
  obtain ⟨hc, hbase, hlen⟩ := henc
  have h := completes_of_empty_operation (i := .xxx c) (s := s) rfl hc rfl
  refine ⟨hw, ⟨hc, hbase, hlen⟩, hlow, hhigh, ?_⟩
  rwa [State.passed, costOf_false, hbase] at h

/-- Settles O9: a term of a mode outside its row of R87 is ill-formed; the others read R85. -/
theorem baseCyclesByClass : Obligations.BaseCyclesByClass := by
  intro i hw
  cases i with
  | xxx c =>
    obtain ⟨cycles, hmem⟩ := exists_mem_illegalCounts hw
    obtain ⟨-, ⟨-, hbase, -⟩, hlow, hhigh⟩ := illegalCounts_rows _ hmem
    exact hbase ▸ ⟨hlow, hhigh⟩
  | asl o | lsr o | rol o | ror o | inc o | dec o | sta o | stx o | sty o | adc o | sbc o | and o | ora o | eor o
  | cmp o | cpx o | cpy o | bit o | lda o | ldx o | ldy o | jmp o => cases o <;> first | rfl | cases hw
  | _ => rfl

/-- Settles O8: each word is the bytes of its instruction's encoding, low byte first. -/
theorem wordsOfEveryFamilyDecode : Obligations.WordsOfEveryFamilyDecode :=
  ⟨rfl, rfl, rfl, rfl, rfl, rfl, rfl, rfl, rfl, rfl, rfl⟩

end Sys2Proof.Machine
